-- ==== Sys2Proof/Word.lean ====
section
/-! DEFINITION. The value a cell holds (spec 00_scope.md R7, decision D1): an exact rational number. A cell is not a
bit vector: it has no width, nothing is ever truncated or extended (R5, R20, R51, R130). -/

namespace Sys2Proof

/-- `Val = ℚ` (R7): what a register, a memory cell or a stack slot holds. -/
abbrev Val := Rat

/-- `Int(v)` (R7): the value is an integer, a rational of denominator 1. -/
def isInt (v : Val) : Bool := v.den == 1

/-- The value is an integer in `lo .. hi`. -/
def isIntIn (lo hi : Int) (v : Val) : Bool := isInt v && decide (lo ≤ v.num) && decide (v.num ≤ hi)

end Sys2Proof
end

