-- ==== Sys2Proof/Config.lean ====
section
/-! DEFINITION. What an implementation fixes (the spec's named parameters `REG_CODE`, `DivResult`, `NCells`: spec
93_implementation_defined.md part 2) and the free values: opaque constants, of which nothing can be proved. -/

namespace Sys2Proof

/-- The six registers (R20). -/
inductive RegName
  | A | B | C | D | E | F
deriving DecidableEq, Repr

/-- The parameter `DivResult` (R138, decision D2). -/
inductive DivChoice
  /-- The default: the exact rational quotient. -/
  | exact
  /-- Any other function of the two operands: `Config.freeDivResult`. -/
  | other
deriving DecidableEq, Repr

/-- The parameter `NCells` (R166, decision D27). -/
inductive NCellsChoice
  /-- The default: `w * h`. -/
  | product
  /-- Any other positive function of width and height: `Config.freeNCells`. -/
  | other
deriving DecidableEq, Repr

/-- The configuration of a machine: fixed for a run, written by no step. It stands in State as plain data, so that a
statement about every state is a statement about every configuration. -/
structure Config where
  /-- `REG_CODE` (R21, decision D3), read backwards: entry `k` is the register whose code is `k`. -/
  regTable : Vector RegName 6
  /-- `DivResult`. -/
  div : DivChoice
  /-- `NCells`. -/
  nCells : NCellsChoice
deriving DecidableEq, Repr

/-- The defaults of spec 93_implementation_defined.md part 2 (decisions D2, D3, D27). -/
def Config.default : Config :=
  { regTable := #v[.A, .B, .C, .D, .E, .F], div := .exact, nCells := .product }

/-- `REG_CODE` is injective (D3): no register has two codes. -/
abbrev Config.wf (cfg : Config) : Prop := cfg.regTable.toList.Nodup

/-- Free value: the quotient of dividend and divisor where `DivResult` is not the default (R138: "the machine
assumes only that it depends on its two arguments alone"). -/
opaque Config.freeDivResult : Val → Val → Val

/-- Free value: one less than `NCells(w, h)` where it is not the default (a positive integer, D27). -/
opaque Config.freeNCells : Int → Int → Nat

/-- Free value: the keycodes pressed at the `n`-th unscripted port answer (R160, R167). -/
opaque Config.freeKeys : Nat → List Int

/-- Free value: the answer of `Block.exists` at the `n`-th unscripted port answer (R160, R170). -/
opaque Config.freeExists : Nat → Bool

/-- Free value: the answer of `Block.readByte` (none: failure) at the `n`-th unscripted port answer (R160, R168). -/
opaque Config.freeRead : Nat → Option (Fin 256)

/-- Free value: whether `Block.writeByte` succeeds, at the `n`-th unscripted port answer (R160, R169). -/
opaque Config.freeWrite : Nat → Bool

/-- Free value: whether the quit signal is raised at a sample (R195, decision D17). -/
opaque Config.freeQuit : Nat → Bool

/-- Free value: whether the loop calls `Display.present()` after an iteration (R218). -/
opaque Config.freePresent : Nat → Bool

end Sys2Proof
end

