-- ==== Sys2Proof/Syntax.lean ====
section
/-! DEFINITION. The instructions: one constructor for every row of spec/opcode_table.json (R76, R80). -/

namespace Sys2Proof

/-- One constructor per row of the opcode table. An operand is the WHOLE value of its cell (R73): a register operand
is the cell that should hold a register code, and a bad one is a fault of the instruction itself (R74), so it is kept.
Pad cells are ignored by the engine (R75) and are not kept. -/
inductive Instr
  /-- R106 -/
  | halt
  /-- R120 -/
  | ldw (reg imm : Val)
  /-- R121 -/
  | mov (dst src : Val)
  /-- R132 -/
  | add (dst src : Val)
  /-- R133 -/
  | sub (dst src : Val)
  /-- R122 -/
  | str (reg addr : Val)
  /-- R123 -/
  | ldr (reg addr : Val)
  /-- R141 -/
  | bne (r1 r2 target : Val)
  /-- R142 -/
  | beq (r1 r2 target : Val)
  /-- R161: the row INT as the assembler writes it, any service code. Every INT word is ALSO a word of exactly one of
  the rows `intPrintChar` to `intUnknown` below, and the decoder answers that more specific row. -/
  | int (code : Val)
  /-- R152 -/
  | push (reg : Val)
  /-- R153 -/
  | pop (reg : Val)
  /-- R145 -/
  | jsr (target : Val)
  /-- R146 -/
  | ret
  /-- R134 -/
  | xor (r1 r2 : Val)
  /-- R135 -/
  | and (r1 r2 : Val)
  /-- R144 -/
  | jmp (target : Val)
  /-- R136 -/
  | mul (r1 r2 : Val)
  /-- R137 -/
  | div (r1 r2 : Val)
  /-- R143 -/
  | blt (r1 r2 target : Val)
  /-- R162: INT 0x00 -/
  | intPrintChar
  /-- R163: INT 0x01 -/
  | intPrintInt
  /-- R164: INT 0x70 -/
  | intDisplayInit
  /-- R165: INT 0x71 -/
  | intSetPixel
  /-- R166: INT 0x72 -/
  | intDrawChar
  /-- R167: INT 0xF6 -/
  | intKeyPoll
  /-- R168: INT 0x80 -/
  | intBlockRead
  /-- R169: INT 0x81 -/
  | intBlockWrite
  /-- R171: INT 0xFE -/
  | intError
  /-- R172: INT 0xFF -/
  | intHalt
  /-- R173: INT with any other code -/
  | intUnknown (code : Val)
  /-- R108: any other value of the opcode cell -/
  | illegal (op : Val)
deriving DecidableEq, Repr

/-- The cells of one fetched instruction, `c[0] .. c[3]` (R8). A three-cell instruction does not look at `c3`. -/
structure Cells where
  c0 : Val
  c1 : Val
  c2 : Val
  c3 : Val
deriving DecidableEq, Repr

end Sys2Proof
end

