-- ==== Sys2Proof/WellFormed.lean ====
section
/-! DEFINITION. Well-formed instructions: a term that stands for words of its own row of the opcode table, with every
register operand a register code (R74, R78, R173). An address or a target may be any cell value (R73): a bad one is a
fault of the running instruction, not an ill-formed term. -/

namespace Sys2Proof

/-- A valid register code: an integer in 0..5 (R21, R74). -/
def isRegCode (c : Val) : Bool := isIntIn 0 5 c

/-- The opcode cell is one of the 20 listed values: an integer in 0..0x14 other than 0x07 (R76, R78). -/
def isListedOpcode (op : Val) : Bool := isIntIn 0 0x14 op && !decide (op = 0x07)

/-- The service code is one of the ten listed values (R173). -/
def isListedService (code : Val) : Bool :=
  [0x00, 0x01, 0x70, 0x71, 0x72, 0x80, 0x81, 0xF6, 0xFE, 0xFF].any fun k => decide (code = (k : Val))

/-- The term stands for words of its own row: `illegal` carries an unlisted opcode (R78), `intUnknown` an unlisted
service code (R173). -/
def Instr.ownRow : Instr → Bool
  | .illegal op => !isListedOpcode op
  | .intUnknown code => !isListedService code
  | .halt | .ret | .ldw _ _ | .mov _ _ | .add _ _ | .sub _ _ | .str _ _ | .ldr _ _ | .xor _ _ | .and _ _ | .mul _ _
  | .div _ _ | .bne _ _ _ | .beq _ _ _ | .blt _ _ _ | .int _ | .push _ | .pop _ | .jsr _ | .jmp _
  | .intPrintChar | .intPrintInt | .intDisplayInit | .intSetPixel | .intDrawChar | .intKeyPoll
  | .intBlockRead | .intBlockWrite | .intError | .intHalt => true

/-- The register operand cells, in the order they are checked (R74). -/
def Instr.regOperands : Instr → List Val
  | .ldw r _ | .str r _ | .ldr r _ | .push r | .pop r => [r]
  | .mov r q | .add r q | .sub r q | .xor r q | .and r q | .mul r q | .div r q => [r, q]
  | .bne r q _ | .beq r q _ | .blt r q _ => [r, q]
  | .halt | .ret | .int _ | .jsr _ | .jmp _ | .intPrintChar | .intPrintInt | .intDisplayInit | .intSetPixel
  | .intDrawChar | .intKeyPoll | .intBlockRead | .intBlockWrite | .intError | .intHalt | .intUnknown _
  | .illegal _ => []

/-- Well-formed: its own row, and every register operand a register code. -/
def Instr.wellFormed (i : Instr) : Bool := i.ownRow && i.regOperands.all isRegCode

end Sys2Proof
end

