-- ==== Sys2Proof/Decode.lean ====
section
/-! DEFINITION. The encoding tables (R71, R76, R161), the decoder, total on any cells, and the encoder written from
the same tables (R70, R72, R91). -/

namespace Sys2Proof

/-- The 20 opcodes of R76. -/
inductive Opcode
  | halt | ldw | mov | add | sub | str | ldr | bne | beq | int | push | pop | jsr | ret | xor | and | jmp | mul | div | blt
deriving DecidableEq, Repr

/-- The ten service codes of R161. -/
inductive Service
  | printChar | printInt | displayInit | setPixel | drawChar | keyPoll | blockRead | blockWrite | error | halt
deriving DecidableEq, Repr

/-- The value of the opcode cell (R76). -/
def opcodeCell : Opcode → Val
  | .halt => 0x00
  | .ldw => 0x01
  | .mov => 0x02
  | .add => 0x03
  | .sub => 0x04
  | .str => 0x05
  | .ldr => 0x06
  | .bne => 0x08
  | .beq => 0x09
  | .int => 0x0A
  | .push => 0x0B
  | .pop => 0x0C
  | .jsr => 0x0D
  | .ret => 0x0E
  | .xor => 0x0F
  | .and => 0x10
  | .jmp => 0x11
  | .mul => 0x12
  | .div => 0x13
  | .blt => 0x14

/-- The value of the service cell (R161). -/
def serviceCell : Service → Val
  | .printChar => 0x00
  | .printInt => 0x01
  | .displayInit => 0x70
  | .setPixel => 0x71
  | .drawChar => 0x72
  | .keyPoll => 0xF6
  | .blockRead => 0x80
  | .blockWrite => 0x81
  | .error => 0xFE
  | .halt => 0xFF

/-- The rows of R76, in the table's order. -/
def opcodes : List Opcode :=
  [.halt, .ldw, .mov, .add, .sub, .str, .ldr, .bne, .beq, .int, .push, .pop, .jsr, .ret, .xor, .and, .jmp, .mul, .div,
    .blt]

/-- The rows of R161. -/
def services : List Service :=
  [.printChar, .printInt, .displayInit, .setPixel, .drawChar, .keyPoll, .blockRead, .blockWrite, .error, .halt]

/-- The opcode an opcode cell selects, by equality (R77); none for an unlisted value (R78). -/
def opcodeOf (c0 : Val) : Option Opcode := opcodes.find? fun o => decide (opcodeCell o = c0)

/-- The service a service cell selects, by equality (R161); none for an unlisted value (R173). -/
def serviceOf (c1 : Val) : Option Service := services.find? fun k => decide (serviceCell k = c1)

/-- `Len(op)` (R71; 3 for an unlisted value by decision D5). -/
def instrLen (c0 : Val) : Nat := if c0 = 0x08 ∨ c0 = 0x09 ∨ c0 = 0x14 then 4 else 3

/-- The row of the opcode table of each service (R80, R161). -/
def rowOfService : Service → Instr
  | .printChar => .intPrintChar
  | .printInt => .intPrintInt
  | .displayInit => .intDisplayInit
  | .setPixel => .intSetPixel
  | .drawChar => .intDrawChar
  | .keyPoll => .intKeyPoll
  | .blockRead => .intBlockRead
  | .blockWrite => .intBlockWrite
  | .error => .intError
  | .halt => .intHalt

/-- The row of the opcode table a service code selects (R161, R173). -/
def serviceRow (code : Val) : Instr :=
  match serviceOf code with
  | some k => rowOfService k
  | none => .intUnknown code

/-- The instruction the fetched cells are (R72, R77): the opcode cell alone selects the instruction, operand cells are
taken whole (R73), pad cells are ignored (R75), and an unlisted opcode cell is ILLEGAL with its value (R78, R108). -/
def decodeCells (c : Cells) : Instr :=
  match opcodeOf c.c0 with
  | some .halt => .halt
  | some .ldw => .ldw c.c1 c.c2
  | some .mov => .mov c.c1 c.c2
  | some .add => .add c.c1 c.c2
  | some .sub => .sub c.c1 c.c2
  | some .str => .str c.c1 c.c2
  | some .ldr => .ldr c.c1 c.c2
  | some .bne => .bne c.c1 c.c2 c.c3
  | some .beq => .beq c.c1 c.c2 c.c3
  | some .int => serviceRow c.c1
  | some .push => .push c.c1
  | some .pop => .pop c.c1
  | some .jsr => .jsr c.c1
  | some .ret => .ret
  | some .xor => .xor c.c1 c.c2
  | some .and => .and c.c1 c.c2
  | some .jmp => .jmp c.c1
  | some .mul => .mul c.c1 c.c2
  | some .div => .div c.c1 c.c2
  | some .blt => .blt c.c1 c.c2 c.c3
  | none => .illegal c.c0

/-- Why a list of cells is no instruction. -/
inductive DecodeError
  /-- There is no opcode cell. -/
  | noCell
  /-- The list ends before the length its opcode cell gives (the engine's fetch never meets this: it pads, R102). -/
  | truncated (op : Val)
deriving DecidableEq, Repr

/-- Reads one instruction off a stream of cells: it and the cells after it (R70, R71, R79). -/
def decode : List Val → Except DecodeError (Instr × List Val)
  | [] => .error .noCell
  | c0 :: rest =>
    if instrLen c0 = 4 then
      match rest with
      | c1 :: c2 :: c3 :: rest => .ok (decodeCells ⟨c0, c1, c2, c3⟩, rest)
      | _ => .error (.truncated c0)
    else
      match rest with
      | c1 :: c2 :: rest => .ok (decodeCells ⟨c0, c1, c2, 0⟩, rest)
      | _ => .error (.truncated c0)

/-- The opcode cell of an instruction (R76; `illegal` carries its own). -/
def Instr.opcode : Instr → Val
  | .halt => opcodeCell .halt
  | .ldw _ _ => opcodeCell .ldw
  | .mov _ _ => opcodeCell .mov
  | .add _ _ => opcodeCell .add
  | .sub _ _ => opcodeCell .sub
  | .str _ _ => opcodeCell .str
  | .ldr _ _ => opcodeCell .ldr
  | .bne _ _ _ => opcodeCell .bne
  | .beq _ _ _ => opcodeCell .beq
  | .push _ => opcodeCell .push
  | .pop _ => opcodeCell .pop
  | .jsr _ => opcodeCell .jsr
  | .ret => opcodeCell .ret
  | .xor _ _ => opcodeCell .xor
  | .and _ _ => opcodeCell .and
  | .jmp _ => opcodeCell .jmp
  | .mul _ _ => opcodeCell .mul
  | .div _ _ => opcodeCell .div
  | .blt _ _ _ => opcodeCell .blt
  | .int _ | .intPrintChar | .intPrintInt | .intDisplayInit | .intSetPixel | .intDrawChar | .intKeyPoll
  | .intBlockRead | .intBlockWrite | .intError | .intHalt | .intUnknown _ => opcodeCell .int
  | .illegal op => op

/-- The operand cells of an instruction, pads as the Encoder writes them: 0 (R72, R75). -/
def Instr.operands : Instr → List Val
  | .halt | .ret | .illegal _ => [0, 0]
  | .ldw r v | .str r v | .ldr r v => [r, v]
  | .mov r q | .add r q | .sub r q | .xor r q | .and r q | .mul r q | .div r q => [r, q]
  | .bne r q t | .beq r q t | .blt r q t => [r, q, t]
  | .push r | .pop r => [r, 0]
  | .jsr t | .jmp t => [t, 0]
  | .int code | .intUnknown code => [code, 0]
  | .intPrintChar => [serviceCell .printChar, 0]
  | .intPrintInt => [serviceCell .printInt, 0]
  | .intDisplayInit => [serviceCell .displayInit, 0]
  | .intSetPixel => [serviceCell .setPixel, 0]
  | .intDrawChar => [serviceCell .drawChar, 0]
  | .intKeyPoll => [serviceCell .keyPoll, 0]
  | .intBlockRead => [serviceCell .blockRead, 0]
  | .intBlockWrite => [serviceCell .blockWrite, 0]
  | .intError => [serviceCell .error, 0]
  | .intHalt => [serviceCell .halt, 0]

/-- The cells of an instruction: the opcode, then the operand cells (R70, R91). -/
def encode (i : Instr) : List Val := i.opcode :: i.operands

/-- The cells of a program: its instructions in order (R91). -/
def encodeProgram (p : List Instr) : List Val := p.flatMap encode

/-- The row the decoder answers for an instruction's words: itself, but for INT, whose words are its service's row. -/
def Instr.decodedRow : Instr → Instr
  | .int code => serviceRow code
  | i => i

/-- Cell `k` of a word of the opcode table: its bits `8k .. 8k+7` (DESIGN CHOICE, assumption 4: the table numbers no
bits; every opcode and service code of the spec fits in one byte). -/
def tableCell (w k : Nat) : Val := ((w >>> (8 * k)) % 256 : Nat)

/-- The cells of a word of the opcode table, as many as the longest instruction has. -/
def tableCells (w : Nat) : List Val := [tableCell w 0, tableCell w 1, tableCell w 2, tableCell w 3]

/-- What the decoder reads from an instruction whose bits are `w`. The bits above `nbits` are 0 in `w` already. -/
def decodeTableWord (_nbits w : Nat) : Option Instr :=
  match decode (tableCells w) with
  | .ok (i, _) => some i
  | .error _ => none

end Sys2Proof
end

