-- ==== Sys2Proof/Machine/State.lean ====
section
/-! DEFINITION. The state of the engine, whole and as plain data (spec 10_state.md R20 to R38), with the model's own
fields that the spec asks a model to keep (output trace, fault mark, port answers, configuration), and the state after
reset (R37). -/

namespace Sys2Proof.Machine

/-- Why a step stops. Only `Machine.step` raises one; no instruction's meaning does: the faults of the spec are
delivered, and a delivery is a next state (R184). -/
inductive Fault
  /-- Raised by `step` in a state with `run = Halted`: the end of a run is terminal and nothing executes after it
  (R31, R110; spec 93_implementation_defined.md I12 calls it stuck). Safe: the model stops where the machine has
  stopped. -/
  | halted
deriving DecidableEq, Repr

/-- Why the model gives no meaning. -/
inductive Refusal
  /-- Raised by an arm of `exec` for an instruction without a meaning: by none, in this model. Safe. -/
  | notModelled (mnemonic : String)
  /-- Raised by `loadProgram`: more than 256 cells (R211, decision D20: a model refuses such a program). Safe. -/
  | programTooLong
  /-- Raised by `loadProgram`: a cell that is not an integer (R211, decision D20). Safe. -/
  | programNotInteger
deriving DecidableEq, Repr

/-- The register file (R20): six cells. -/
structure Regs where
  a : Val
  b : Val
  c : Val
  d : Val
  e : Val
  f : Val
deriving DecidableEq, Repr

/-- The state machine over Running and Halted (R31). -/
inductive RunState
  | running | halted
deriving DecidableEq, Repr

/-- The two display modes (R38, R164). -/
inductive DisplayMode
  /-- mode 0 -/
  | pixel
  /-- mode 1 -/
  | text
deriving DecidableEq, Repr

/-- A configured display, `svc.display` (R38). -/
structure Display where
  mode : DisplayMode
  w : Int
  h : Int
deriving DecidableEq, Repr

/-- The memory `M` (R34): the cells that hold something else than `Memory.blank`, by rising address. -/
abbrev Memory := List (Nat × Val)

/-- What an unlisted cell reads as: 0 (R34: "zero-initialized"). -/
def Memory.blank : Val := 0

/-- The number of memory cells, `MEMSIZE` (R5). -/
def memSize : Nat := 256

/-- The number of stack slots, `STACKSIZE` (R5), and the initial stack pointer. -/
def stackSize : Nat := 32

/-- The canonical form of memory: addresses strictly rising, all of them cells of the machine, nothing listed that an
unlisted address reads as. -/
abbrev Memory.wf (m : Memory) : Prop :=
  m.Pairwise (fun p q => p.1 < q.1) ∧ ∀ p ∈ m, p.1 < memSize ∧ p.2 ≠ Memory.blank

/-- An event of the output trace (R33, R160, decision D25): what the engine has emitted, and every port call with its
arguments. -/
inductive Event
  | printChar (code : Int)
  | printInt (v : Val)
  | errorReport (a b c : Val)
  | displayInit (mode w h : Int)
  | setPixel (x y color : Int)
  | drawChar (cell char color : Int)
  | present
  | pressedKeycodes
  | blockExists (drive : Int)
  | blockReadByte (drive sector offset : Int)
  | blockWriteByte (drive sector offset : Int) (byte : Val)
deriving DecidableEq, Repr

/-- What the outside will answer (R160, R195, R218): for each port a script of its coming answers, oldest first. A call
takes the head of its script; where the script is empty the answer is a free value of Config applied to `draws`, and
`draws` counts on. The model's own field. -/
structure Ports where
  /-- coming answers of `Input.pressedKeycodes()`: each a set, as a list in any order -/
  keys : List (List Int)
  /-- coming answers of `Block.exists` -/
  devices : List Bool
  /-- coming answers of `Block.readByte`; none is failure -/
  reads : List (Option (Fin 256))
  /-- coming answers of `Block.writeByte`; false is failure -/
  writes : List Bool
  /-- whether the quit signal is raised at the coming samples -/
  quits : List Bool
  /-- whether the loop calls `Display.present()` after the coming iterations with a display active -/
  presents : List Bool
  /-- how many free values have been taken -/
  draws : Nat
deriving DecidableEq, Repr

/-- The state (R33). -/
structure State where
  /-- the configuration (the model's own field; constant) -/
  cfg : Config
  /-- the registers A..F (R20) -/
  regs : Regs
  /-- the program counter (R24, R26) -/
  pc : Nat
  /-- the stack pointer (R29) -/
  sp : Nat
  /-- the stack slots `S[0] .. S[31]` (R28) -/
  stack : Vector Val 32
  /-- the run state (R31) -/
  run : RunState
  /-- `svc.display` (R38) -/
  display : Option Display
  /-- `svc.last_key` (R38) -/
  lastKey : Option Int
  /-- the memory `M[0] .. M[255]` (R34) -/
  mem : Memory
  /-- the cycle counter (R35) -/
  cycles : Nat
  /-- the output trace `out`, oldest event first (R33) -/
  out : List Event
  /-- the sticky fault mark (R110, R199, decision D29): the model's own field -/
  faulted : Bool
  /-- the answers of the outside: the model's own field -/
  ports : Ports
deriving DecidableEq, Repr

/-- The state right after reset, with no program loaded (R37, R210). -/
def State.reset : State :=
  { cfg := Config.default
    regs := ⟨0, 0, 0, 0, 0, 0⟩
    pc := 0
    sp := stackSize
    stack := Vector.replicate 32 0
    run := .running
    display := none
    lastKey := none
    mem := []
    cycles := 0
    out := []
    faulted := false
    ports := ⟨[], [], [], [], [], [], 0⟩ }

end Sys2Proof.Machine
end

