-- ==== Sys2Proof/Machine/Flags.lean ====
section
/-! DEFINITION. The conditions of the branches. The ISA has no flag of any kind (R32): a branch compares the values
of two registers as numbers (R141, R142, R143). -/

namespace Sys2Proof.Machine

/-- BNE is taken iff `r1 ≠ r2` (R141). -/
def condNe (x y : Val) : Bool := decide (x ≠ y)

/-- BEQ is taken iff `r1 = r2` (R142). -/
def condEq (x y : Val) : Bool := decide (x = y)

/-- BLT is taken iff `r1 < r2`, the signed numeric order (R143). -/
def condLt (x y : Val) : Bool := decide (x < y)

end Sys2Proof.Machine
end

