-- ==== Sys2Proof/Machine/Operands.lean ====
section
/-! DEFINITION. Operand forms (R73, R74, R55, R140) and the value operations of the arithmetic and logic instructions
(R131, R138). -/

namespace Sys2Proof.Machine

/-- The integer a value is, if it is one (R7). -/
def intOf (v : Val) : Option Int := if v.den = 1 then some v.num else none

/-- The natural number below `bound` a value is, if it is one. -/
def natBelow (bound : Nat) (v : Val) : Option Nat :=
  if v.den = 1 ∧ 0 ≤ v.num ∧ v.num < bound then some v.num.toNat else none

/-- `Reg(c)` (R9, R74): the register a register code names; none for an invalid code. -/
def regOf (cfg : Config) (c : Val) : Option RegName := (natBelow 6 c).bind fun k => cfg.regTable[k]?

/-- The cell a memory address names, as the bounds checker admits it (R55); none out of range. -/
def addrOf (addr : Val) : Option Nat := natBelow memSize addr

/-- The address a valid target is (`ValidTarget`, R140); none for an invalid target. -/
def targetOf (t : Val) : Option Nat := natBelow memSize t

/-- Bit `k` of an integer in the infinite two's-complement representation (R131). -/
def intBit (n : Int) (k : Nat) : Bool :=
  match n with
  | .ofNat m => m / 2 ^ k % 2 == 1
  | .negSucc m => !(m / 2 ^ k % 2 == 1)

/-- `xor` on integers (R131). -/
def xorInt : Int → Int → Int
  | .ofNat m, .ofNat n => .ofNat (m ^^^ n)
  | .ofNat m, .negSucc n => .negSucc (m ^^^ n)
  | .negSucc m, .ofNat n => .negSucc (m ^^^ n)
  | .negSucc m, .negSucc n => .ofNat (m ^^^ n)

/-- `and` on integers (R131): `m &&& ¬ n` is `m` less the bits it shares with `n`. -/
def andInt : Int → Int → Int
  | .ofNat m, .ofNat n => .ofNat (m &&& n)
  | .ofNat m, .negSucc n => .ofNat (m - (m &&& n))
  | .negSucc m, .ofNat n => .ofNat (n - (m &&& n))
  | .negSucc m, .negSucc n => .negSucc (m ||| n)

/-- `DivResult` (R138, decision D2), for a divisor that is not 0. -/
def divResult (cfg : Config) (p q : Val) : Val :=
  match cfg.div with
  | .exact => p / q
  | .other => Config.freeDivResult p q

/-- `NCells(w, h)` (R166, decision D27): a positive integer. -/
def nCells (cfg : Config) (w h : Int) : Int :=
  match cfg.nCells with
  | .product => w * h
  | .other => (Config.freeNCells w h : Int) + 1

end Sys2Proof.Machine
end

