-- ==== Sys2Proof/Machine/Ops.lean ====
section
/-! DEFINITION. The named operations over registers, memory, stack, output and ports; taking a fault as one shared
operation (R184, R186); fetch (R102), host sampling (R105), loading (R211) and the state dump (R197). There is no
return from a fault (R191), so no operation for one. -/

namespace Sys2Proof.Machine

/-! ### Registers (R20, R22) -/

/-- Reads one register of the file. -/
def Regs.get (g : Regs) : RegName → Val
  | .A => g.a
  | .B => g.b
  | .C => g.c
  | .D => g.d
  | .E => g.e
  | .F => g.f

/-- Writes one register of the file. -/
def Regs.set (g : Regs) (r : RegName) (v : Val) : Regs :=
  match r with
  | .A => { g with a := v }
  | .B => { g with b := v }
  | .C => { g with c := v }
  | .D => { g with d := v }
  | .E => { g with e := v }
  | .F => { g with f := v }

/-- Reads a register. -/
def State.reg (s : State) (r : RegName) : Val := s.regs.get r

/-- Writes a register. -/
def State.setReg (s : State) (r : RegName) (v : Val) : State := { s with regs := s.regs.set r v }

/-! ### Memory (R34, R54) -/

/-- The value of cell `a`. -/
def Memory.read : Memory → Nat → Val
  | [], _ => Memory.blank
  | (k, v) :: m, a => if k = a then v else Memory.read m a

/-- Writes cell `a`, keeping the canonical form. -/
def Memory.write : Memory → Nat → Val → Memory
  | [], a, v => if v = Memory.blank then [] else [(a, v)]
  | (k, w) :: m, a, v =>
    if a < k then (if v = Memory.blank then (k, w) :: m else (a, v) :: (k, w) :: m)
    else if a = k then (if v = Memory.blank then m else (a, v) :: m)
    else (k, w) :: Memory.write m a v

/-- Reads memory cell `a`. -/
def State.cell (s : State) (a : Nat) : Val := s.mem.read a

/-- Writes memory cell `a`. -/
def State.setCell (s : State) (a : Nat) (v : Val) : State := { s with mem := s.mem.write a v }

/-- Writes cells at rising addresses from `a`; what would lie above the last cell of memory is dropped. -/
def Memory.writeAll : Memory → Nat → List Val → Memory
  | m, _, [] => m
  | m, a, v :: vs => Memory.writeAll (if a < memSize then m.write a v else m) (a + 1) vs

/-! ### Stack (R28) -/

/-- Reads stack slot `k`. -/
def State.slot (s : State) (k : Nat) : Val := s.stack[k]?.getD 0

/-- `Push(v)` on a stack that is not full (R150): the slot below `sp` takes the value. -/
def State.push (s : State) (v : Val) : State :=
  { s with sp := s.sp - 1, stack := s.stack.setIfInBounds (s.sp - 1) v }

/-- The stack pointer after a `Pop()` (R151); the slot keeps its value. -/
def State.pop (s : State) : State := { s with sp := s.sp + 1 }

/-! ### Output, halting, taking a fault -/

/-- `Emit(e)` (R9). -/
def State.emit (s : State) (e : Event) : State := { s with out := s.out ++ [e] }

/-- `run <- Halted` (R31). -/
def State.halt (s : State) : State := { s with run := .halted }

/-- Service 0xFE, the universal fault sink (R171). -/
def errorInterrupt (s : State) : State := (s.emit (.errorReport s.regs.a s.regs.b s.regs.c)).halt

/-- Taking a fault, whatever its kind (R184, R186): A takes the code, B the advanced pc, C the third diagnostic value;
the error interrupt reports them and halts. The sticky mark is set (R110). -/
def deliver (code c : Val) (s : State) : State :=
  errorInterrupt { s with regs := { s.regs with a := code, b := (s.pc : Val), c := c }, faulted := true }

/-- The fault categories (R181). -/
inductive Category
  | value | malformed | stack | division
deriving DecidableEq, Repr

/-- The category code delivered in A (R181). -/
def categoryCode : Category → Val
  | .value => 1
  | .malformed => 2
  | .stack => 3
  | .division => 4

/-- The failures of the block device (R186). -/
inductive BlockCode
  | drive | sector | offset | absent | transfer
deriving DecidableEq, Repr

/-- The error code delivered in A (R186). -/
def blockCodeOf : BlockCode → Val
  | .drive => 0x81
  | .sector => 0x82
  | .offset => 0x83
  | .absent => 0x84
  | .transfer => 0x85

/-- `raise Fault(k)` in an instruction whose opcode cell is `op` (R10, R184). -/
def raiseFault (k : Category) (op : Val) (s : State) : State := deliver (categoryCode k) op s

/-- `raise BlockError(code)` (R186): C is 0. -/
def raiseBlock (e : BlockCode) (s : State) : State := deliver (blockCodeOf e) 0 s

/-! ### Checked operands: each check precedes every write (R10, R188) -/

/-- Goes on with the register a code names, or raises Fault(2) (R74). -/
def withReg (op c : Val) (s : State) (go : RegName → State) : State :=
  match regOf s.cfg c with
  | some r => go r
  | none => raiseFault .malformed op s

/-- Goes on with the registers two codes name; `c1` is checked first (R74, R188). -/
def withRegs (op c1 c2 : Val) (s : State) (go : RegName → RegName → State) : State :=
  withReg op c1 s fun i => withReg op c2 s fun j => go i j

/-- Goes on with the cell an address names, or raises Fault(1) (R55). -/
def withAddr (op addr : Val) (s : State) (go : Nat → State) : State :=
  match addrOf addr with
  | some a => go a
  | none => raiseFault .value op s

/-- Goes on with the address a target names, or raises Fault(1) (R140). -/
def withTarget (op t : Val) (s : State) (go : Nat → State) : State :=
  match targetOf t with
  | some a => go a
  | none => raiseFault .value op s

/-- Goes on with the integer a value is, or raises Fault(1) (R131, decision D14). -/
def withInt (op v : Val) (s : State) (go : Int → State) : State :=
  match intOf v with
  | some n => go n
  | none => raiseFault .value op s

/-- `pc <- t` (R8). -/
def State.jump (s : State) (t : Nat) : State := { s with pc := t }

/-- `pc <- a + len`, one cycle counted (R100, R102, R35). -/
def State.advance (s : State) (len : Nat) : State := { s with pc := s.pc + len, cycles := s.cycles + 1 }

/-- The shape of ADD, SUB and MUL (R132, R133, R136): two registers, one result, no other check. -/
def arith (op : Val) (f : Val → Val → Val) (c1 c2 : Val) (s : State) : State :=
  withRegs op c1 c2 s fun i j => s.setReg i (f (s.reg i) (s.reg j))

/-- The shape of XOR and AND (R134, R135): both values must be integers. -/
def bitwise (op : Val) (f : Int → Int → Int) (c1 c2 : Val) (s : State) : State :=
  withRegs op c1 c2 s fun i j =>
    withInt op (s.reg i) s fun m => withInt op (s.reg j) s fun n => s.setReg i (f m n : Int)

/-- The shape of BNE, BEQ and BLT (R141 to R143): the target is checked only when the branch is taken. -/
def branch (op : Val) (cond : Val → Val → Bool) (c1 c2 t : Val) (s : State) : State :=
  withRegs op c1 c2 s fun i j =>
    if cond (s.reg i) (s.reg j) then withTarget op t s fun a => s.jump a else s

/-! ### The ports (R160): each takes the next scripted answer, or a free value -/

/-- The answer of `Input.pressedKeycodes()`. -/
def Ports.nextKeys (p : Ports) : List Int × Ports :=
  match p.keys with
  | x :: xs => (x, { p with keys := xs })
  | [] => (Config.freeKeys p.draws, { p with draws := p.draws + 1 })

/-- The answer of `Block.exists`. -/
def Ports.nextExists (p : Ports) : Bool × Ports :=
  match p.devices with
  | x :: xs => (x, { p with devices := xs })
  | [] => (Config.freeExists p.draws, { p with draws := p.draws + 1 })

/-- The answer of `Block.readByte`. -/
def Ports.nextRead (p : Ports) : Option (Fin 256) × Ports :=
  match p.reads with
  | x :: xs => (x, { p with reads := xs })
  | [] => (Config.freeRead p.draws, { p with draws := p.draws + 1 })

/-- The answer of `Block.writeByte`. -/
def Ports.nextWrite (p : Ports) : Bool × Ports :=
  match p.writes with
  | x :: xs => (x, { p with writes := xs })
  | [] => (Config.freeWrite p.draws, { p with draws := p.draws + 1 })

/-- Whether the quit signal is raised at this sample (R195). -/
def Ports.nextQuit (p : Ports) : Bool × Ports :=
  match p.quits with
  | x :: xs => (x, { p with quits := xs })
  | [] => (Config.freeQuit p.draws, { p with draws := p.draws + 1 })

/-- Whether the loop calls `Display.present()` after this iteration (R218). -/
def Ports.nextPresent (p : Ports) : Bool × Ports :=
  match p.presents with
  | x :: xs => (x, { p with presents := xs })
  | [] => (Config.freePresent p.draws, { p with draws := p.draws + 1 })

/-- Calls `Input.pressedKeycodes()`: the call is recorded, the answer taken. -/
def pollKeys (s : State) : List Int × State :=
  let (keys, ports) := s.ports.nextKeys
  (keys, { s.emit .pressedKeycodes with ports := ports })

/-- Calls `Block.exists(drive)`. -/
def askExists (drive : Int) (s : State) : Bool × State :=
  let (yes, ports) := s.ports.nextExists
  (yes, { s.emit (.blockExists drive) with ports := ports })

/-- Calls `Block.readByte(drive, sector, offset)`. -/
def askRead (drive sector offset : Int) (s : State) : Option (Fin 256) × State :=
  let (r, ports) := s.ports.nextRead
  (r, { s.emit (.blockReadByte drive sector offset) with ports := ports })

/-- Calls `Block.writeByte(drive, sector, offset, byte)`. -/
def askWrite (drive sector offset : Int) (byte : Val) (s : State) : Bool × State :=
  let (ok, ports) := s.ports.nextWrite
  (ok, { s.emit (.blockWriteByte drive sector offset byte) with ports := ports })

/-! ### The loop around an instruction -/

/-- `FetchCell(n)` (R102): 0 above the last cell of memory. -/
def fetchCell (s : State) (n : Nat) : Val := if n < memSize then s.cell n else 0

/-- The cells of the instruction at `pc` (R102). All four are read; a three-cell instruction ignores the last, and a
read of memory has no effect (R54). -/
def fetchCells (s : State) : Cells :=
  ⟨fetchCell s s.pc, fetchCell s (s.pc + 1), fetchCell s (s.pc + 2), fetchCell s (s.pc + 3)⟩

/-- `HostSample()` (R105, R195, R218): with a display active the loop may call `Display.present()`, and samples the quit
signal; with none it does nothing. -/
def hostSample (s : State) : State :=
  match s.display with
  | none => s
  | some _ =>
    let (shown, ports) := s.ports.nextPresent
    let (quit, ports) := ports.nextQuit
    { s with
      out := if shown then s.out ++ [.present] else s.out
      run := if quit then .halted else s.run
      ports := ports }

/-! ### The host (R198) -/

/-- Loading a program into a machine of configuration `cfg`, as part of reset (R211): its cells verbatim from address
0, zeros above. A program of more than 256 cells, or with a cell that is not an integer, is refused (decision D20). -/
def loadProgram (cfg : Config) (p : List Val) : Host.Outcome State Fault Refusal :=
  if memSize < p.length then .refused .programTooLong
  else if p.all isInt then .next { State.reset with cfg := cfg, mem := Memory.writeAll [] 0 p }
  else .refused .programNotInteger

/-- What the host reads in a state dump (R197). Its text format is outside the block. -/
structure Dump where
  regs : List Val
  stack : List Val
  cycles : Nat
  mem : List Val
deriving DecidableEq, Repr

/-- The state dump: produced only after the run has halted, and changes nothing (R197). -/
def dump (s : State) : Option Dump :=
  match s.run with
  | .running => none
  | .halted =>
    some
      { regs := [s.regs.a, s.regs.b, s.regs.c, s.regs.d, s.regs.e, s.regs.f]
        stack := s.stack.toList
        cycles := s.cycles
        mem := (List.range memSize).map s.cell }

end Sys2Proof.Machine
end

