-- ==== Sys2Proof/Machine/Arith.lean ====
section
/-! DEFINITION. ADD, SUB, XOR, AND, MUL, DIV (spec 42_arithmetic_logic.md): exact on rationals, no wrap, no flag
(R130, R32). -/

namespace Sys2Proof.Machine

/-- ADD dst, src (R132). -/
def execAdd (c1 c2 : Val) (s : State) : Host.Outcome State Fault Refusal :=
  .next (arith (opcodeCell .add) (fun x y => x + y) c1 c2 s)

/-- SUB dst, src (R133). -/
def execSub (c1 c2 : Val) (s : State) : Host.Outcome State Fault Refusal :=
  .next (arith (opcodeCell .sub) (fun x y => x - y) c1 c2 s)

/-- XOR r1, r2 (R134). -/
def execXor (c1 c2 : Val) (s : State) : Host.Outcome State Fault Refusal :=
  .next (bitwise (opcodeCell .xor) xorInt c1 c2 s)

/-- AND r1, r2 (R135). -/
def execAnd (c1 c2 : Val) (s : State) : Host.Outcome State Fault Refusal :=
  .next (bitwise (opcodeCell .and) andInt c1 c2 s)

/-- MUL r1, r2 (R136). -/
def execMul (c1 c2 : Val) (s : State) : Host.Outcome State Fault Refusal :=
  .next (arith (opcodeCell .mul) (fun x y => x * y) c1 c2 s)

/-- DIV r1, r2 (R137): a zero divisor raises Fault(4); otherwise `DivResult` (R138). -/
def execDiv (c1 c2 : Val) (s : State) : Host.Outcome State Fault Refusal :=
  .next
    (withRegs (opcodeCell .div) c1 c2 s fun i j =>
      if s.reg j = 0 then raiseFault .division (opcodeCell .div) s
      else s.setReg i (divResult s.cfg (s.reg i) (s.reg j)))

end Sys2Proof.Machine
end

