-- ==== Sys2Proof/Machine/Control.lean ====
section
/-! DEFINITION. BNE, BEQ, BLT, JMP, JSR, RET (spec 43_control_transfer.md). -/

namespace Sys2Proof.Machine

/-- BNE r1, r2, label (R141). -/
def execBne (c1 c2 t : Val) (s : State) : Host.Outcome State Fault Refusal :=
  .next (branch (opcodeCell .bne) condNe c1 c2 t s)

/-- BEQ r1, r2, label (R142). -/
def execBeq (c1 c2 t : Val) (s : State) : Host.Outcome State Fault Refusal :=
  .next (branch (opcodeCell .beq) condEq c1 c2 t s)

/-- BLT r1, r2, label (R143). -/
def execBlt (c1 c2 t : Val) (s : State) : Host.Outcome State Fault Refusal :=
  .next (branch (opcodeCell .blt) condLt c1 c2 t s)

/-- JMP label (R144). -/
def execJmp (t : Val) (s : State) : Host.Outcome State Fault Refusal :=
  .next (withTarget (opcodeCell .jmp) t s fun a => s.jump a)

/-- JSR label (R145): the target is checked before the stack (R188); the advanced pc is pushed. -/
def execJsr (t : Val) (s : State) : Host.Outcome State Fault Refusal :=
  .next
    (withTarget (opcodeCell .jsr) t s fun a =>
      if s.sp = 0 then raiseFault .stack (opcodeCell .jsr) s else (s.push (s.pc : Val)).jump a)

/-- RET (R146): the stack is checked before the popped target (R188). -/
def execRet (s : State) : Host.Outcome State Fault Refusal :=
  .next
    (if stackSize ≤ s.sp then raiseFault .stack (opcodeCell .ret) s
     else withTarget (opcodeCell .ret) (s.slot s.sp) s fun a => s.pop.jump a)

end Sys2Proof.Machine
end

