-- ==== Sys2Proof/Machine/DataMove.lean ====
section
/-! DEFINITION. LDW, MOV, STR, LDR (spec 41_data_movement.md). -/

namespace Sys2Proof.Machine

/-- LDW reg, imm (R120). -/
def execLdw (c1 imm : Val) (s : State) : Host.Outcome State Fault Refusal :=
  .next (withReg (opcodeCell .ldw) c1 s fun i => s.setReg i imm)

/-- MOV dst, src (R121). -/
def execMov (c1 c2 : Val) (s : State) : Host.Outcome State Fault Refusal :=
  .next (withRegs (opcodeCell .mov) c1 c2 s fun i j => s.setReg i (s.reg j))

/-- STR reg, addr (R122). -/
def execStr (c1 addr : Val) (s : State) : Host.Outcome State Fault Refusal :=
  .next (withReg (opcodeCell .str) c1 s fun i => withAddr (opcodeCell .str) addr s fun a => s.setCell a (s.reg i))

/-- LDR reg, addr (R123). -/
def execLdr (c1 addr : Val) (s : State) : Host.Outcome State Fault Refusal :=
  .next (withReg (opcodeCell .ldr) c1 s fun i => withAddr (opcodeCell .ldr) addr s fun a => s.setReg i (s.cell a))

end Sys2Proof.Machine
end

