-- ==== Sys2Proof/Machine/Loop.lean ====
section
/-! DEFINITION. HALT and the invalid opcodes (spec 40_fetch_decode_loop.md). In every meaning of this model `pc` is
already the advanced pc (R24), and a fault is delivered as a next state (R104). -/

namespace Sys2Proof.Machine

/-- HALT (R106). -/
def execHalt (s : State) : Host.Outcome State Fault Refusal := .next s.halt

/-- Any unlisted opcode cell (R108): Fault(2), C receives the cell's value (R184, decision D28). -/
def execIllegal (op : Val) (s : State) : Host.Outcome State Fault Refusal := .next (raiseFault .malformed op s)

end Sys2Proof.Machine
end

