-- ==== Sys2Proof/Machine/Services.lean ====
section
/-! DEFINITION. INT and its services (spec 45_interrupt_services.md). A fault inside a service has opcode cell 0x0A
(R184). -/

namespace Sys2Proof.Machine

/-- Service 0x00, print-char (R162). -/
def execIntPrintChar (s : State) : Host.Outcome State Fault Refusal :=
  .next (withInt (opcodeCell .int) s.regs.a s fun n => s.emit (.printChar n))

/-- Service 0x01, print-int (R163). -/
def execIntPrintInt (s : State) : Host.Outcome State Fault Refusal := .next (s.emit (.printInt s.regs.a))

/-- The display mode a mode number is (R164). -/
def displayModeOf (m : Val) : Option DisplayMode :=
  if m = 0 then some .pixel else if m = 1 then some .text else none

/-- The mode number of a display mode (R38). -/
def displayModeNumber : DisplayMode → Int
  | .pixel => 0
  | .text => 1

/-- The positive integer a width or height is (R164, decision D14). -/
def sizeOf (v : Val) : Option Int := (intOf v).filter fun n => 1 ≤ n

/-- `Display.init(m, w, h)` and the new `svc.display` (R164). -/
def initDisplay (m : DisplayMode) (w h : Int) (s : State) : State :=
  { s.emit (.displayInit (displayModeNumber m) w h) with display := some ⟨m, w, h⟩ }

/-- Service 0x70, display-init (R164). -/
def execIntDisplayInit (s : State) : Host.Outcome State Fault Refusal :=
  .next
    (match displayModeOf s.regs.a, sizeOf s.regs.b, sizeOf s.regs.c with
     | some m, some w, some h => initDisplay m w h s
     | _, _, _ => raiseFault .value (opcodeCell .int) s)

/-- The coordinate below `bound` a value is (R165, decision D14: half-open bounds). -/
def coordOf (bound : Int) (v : Val) : Option Int := (intOf v).filter fun n => 0 ≤ n ∧ n < bound

/-- Service 0x71, set-pixel (R165). -/
def execIntSetPixel (s : State) : Host.Outcome State Fault Refusal :=
  .next
    (match s.display with
     | some ⟨.pixel, w, h⟩ =>
       match coordOf w s.regs.b, coordOf h s.regs.c, intOf s.regs.a with
       | some x, some y, some color => s.emit (.setPixel x y color)
       | _, _, _ => raiseFault .value (opcodeCell .int) s
     | some ⟨.text, _, _⟩ | none => raiseFault .value (opcodeCell .int) s)

/-- The cell index that is drawn: an out-of-range one is clamped to the last cell (R166). -/
def clampIndex (n idx : Int) : Int := if 0 ≤ idx ∧ idx < n then idx else n - 1

/-- Service 0x72, draw-char (R166). -/
def execIntDrawChar (s : State) : Host.Outcome State Fault Refusal :=
  .next
    (match s.display with
     | some ⟨.text, w, h⟩ =>
       match intOf s.regs.a, intOf s.regs.b, intOf s.regs.c with
       | some char, some idx, some color =>
         (s.emit (.drawChar (clampIndex (nCells s.cfg w h) idx) char color)).emit .present
       | _, _, _ => raiseFault .value (opcodeCell .int) s
     | some ⟨.pixel, _, _⟩ | none => raiseFault .value (opcodeCell .int) s)

/-- What key-poll reports of the pressed set (R167): the least keycode, and whether it is a new press. -/
def reportKeys (keys : List Int) (s : State) : State :=
  match keys.min? with
  | none => { s with regs := { s.regs with a := 0, b := 0 }, lastKey := none }
  | some k => { s with regs := { s.regs with a := (k : Val), b := if s.lastKey = some k then 0 else 1 }, lastKey := some k }

/-- Service 0xF6, key-poll (R167). -/
def execIntKeyPoll (s : State) : Host.Outcome State Fault Refusal :=
  .next (reportKeys (pollKeys s).1 (pollKeys s).2)

/-- `BlockValidate` (R170): drive, sector, offset, existence; the first failing test decides the code. Goes on with the
three fields, in the state after the existence query. -/
def blockValidate (s : State) (go : Int → Int → Int → State → State) : State :=
  match coordOf 10 s.regs.a with
  | none => raiseBlock .drive s
  | some d =>
    match coordOf 16 s.regs.b with
    | none => raiseBlock .sector s
    | some sec =>
      match coordOf 255 s.regs.c with
      | none => raiseBlock .offset s
      | some o => if (askExists d s).1 then go d sec o (askExists d s).2 else raiseBlock .absent (askExists d s).2

/-- The end of a block-read: E takes the byte, or the failure is delivered (R168). -/
def finishRead (r : Option (Fin 256)) (s : State) : State :=
  match r with
  | some byte => s.setReg .E (byte.val : Val)
  | none => raiseBlock .transfer s

/-- Service 0x80, block-read (R168). -/
def execIntBlockRead (s : State) : Host.Outcome State Fault Refusal :=
  .next (blockValidate s fun d sec o t => finishRead (askRead d sec o t).1 (askRead d sec o t).2)

/-- The end of a block-write: nothing changes, or the failure is delivered (R169, decision D16). -/
def finishWrite (ok : Bool) (s : State) : State := if ok then s else raiseBlock .transfer s

/-- Service 0x81, block-write (R169): the value of D is passed unchecked. -/
def execIntBlockWrite (s : State) : Host.Outcome State Fault Refusal :=
  .next
    (blockValidate s fun d sec o t =>
      finishWrite (askWrite d sec o t.regs.d t).1 (askWrite d sec o t.regs.d t).2)

/-- Service 0xFE, the error interrupt, called by the program (R171): no register is written, and it is no fault of the
engine (R199). -/
def execIntError (s : State) : Host.Outcome State Fault Refusal := .next (errorInterrupt s)

/-- Service 0xFF, halt (R172). -/
def execIntHalt (s : State) : Host.Outcome State Fault Refusal := .next s.halt

/-- Any other service code (R173). -/
def execIntUnknown (_code : Val) (s : State) : Host.Outcome State Fault Refusal :=
  .next (raiseFault .value (opcodeCell .int) s)

/-- INT (R161): the code cell selects the service. -/
def execInt (code : Val) (s : State) : Host.Outcome State Fault Refusal :=
  match serviceOf code with
  | some .printChar => execIntPrintChar s
  | some .printInt => execIntPrintInt s
  | some .displayInit => execIntDisplayInit s
  | some .setPixel => execIntSetPixel s
  | some .drawChar => execIntDrawChar s
  | some .keyPoll => execIntKeyPoll s
  | some .blockRead => execIntBlockRead s
  | some .blockWrite => execIntBlockWrite s
  | some .error => execIntError s
  | some .halt => execIntHalt s
  | none => execIntUnknown code s

end Sys2Proof.Machine
end

