-- ==== Sys2Proof/Machine/Stack.lean ====
section
/-! DEFINITION. PUSH and POP (spec 44_stack.md). -/

namespace Sys2Proof.Machine

/-- PUSH reg (R152). -/
def execPush (c1 : Val) (s : State) : Host.Outcome State Fault Refusal :=
  .next
    (withReg (opcodeCell .push) c1 s fun i =>
      if s.sp = 0 then raiseFault .stack (opcodeCell .push) s else s.push (s.reg i))

/-- POP reg (R153). -/
def execPop (c1 : Val) (s : State) : Host.Outcome State Fault Refusal :=
  .next
    (withReg (opcodeCell .pop) c1 s fun i =>
      if stackSize ≤ s.sp then raiseFault .stack (opcodeCell .pop) s else s.pop.setReg i (s.slot s.sp))

end Sys2Proof.Machine
end

