-- ==== Sys2Proof/Machine/Dispatch.lean ====
section
/-! DEFINITION. `Execute(op, c)` (R103): one arm per row of the opcode table. -/

namespace Sys2Proof.Machine

def exec (i : Instr) (s : State) : Host.Outcome State Fault Refusal :=
  match i with
  | .halt => Sys2Proof.Machine.execHalt s
  | .ldw reg imm => Sys2Proof.Machine.execLdw reg imm s
  | .mov dst src => Sys2Proof.Machine.execMov dst src s
  | .add dst src => Sys2Proof.Machine.execAdd dst src s
  | .sub dst src => Sys2Proof.Machine.execSub dst src s
  | .str reg addr => Sys2Proof.Machine.execStr reg addr s
  | .ldr reg addr => Sys2Proof.Machine.execLdr reg addr s
  | .bne r q target => Sys2Proof.Machine.execBne r q target s
  | .beq r q target => Sys2Proof.Machine.execBeq r q target s
  | .int code => Sys2Proof.Machine.execInt code s
  | .push reg => Sys2Proof.Machine.execPush reg s
  | .pop reg => Sys2Proof.Machine.execPop reg s
  | .jsr target => Sys2Proof.Machine.execJsr target s
  | .ret => Sys2Proof.Machine.execRet s
  | .xor r q => Sys2Proof.Machine.execXor r q s
  | .and r q => Sys2Proof.Machine.execAnd r q s
  | .jmp target => Sys2Proof.Machine.execJmp target s
  | .mul r q => Sys2Proof.Machine.execMul r q s
  | .div r q => Sys2Proof.Machine.execDiv r q s
  | .blt r q target => Sys2Proof.Machine.execBlt r q target s
  | .intPrintChar => Sys2Proof.Machine.execIntPrintChar s
  | .intPrintInt => Sys2Proof.Machine.execIntPrintInt s
  | .intDisplayInit => Sys2Proof.Machine.execIntDisplayInit s
  | .intSetPixel => Sys2Proof.Machine.execIntSetPixel s
  | .intDrawChar => Sys2Proof.Machine.execIntDrawChar s
  | .intKeyPoll => Sys2Proof.Machine.execIntKeyPoll s
  | .intBlockRead => Sys2Proof.Machine.execIntBlockRead s
  | .intBlockWrite => Sys2Proof.Machine.execIntBlockWrite s
  | .intError => Sys2Proof.Machine.execIntError s
  | .intHalt => Sys2Proof.Machine.execIntHalt s
  | .intUnknown code => Sys2Proof.Machine.execIntUnknown code s
  | .illegal op => Sys2Proof.Machine.execIllegal op s

end Sys2Proof.Machine
end

