-- ==== Sys2Proof/Machine/Step.lean ====
section
/-! DEFINITION. One iteration of the run loop (spec 40_fetch_decode_loop.md R100). -/

namespace Sys2Proof.Machine

/-- One iteration (R100). A halted engine makes none (R110). With `pc` past the last cell it halts and nothing else
changes (R101). Otherwise it fetches, advances, executes and samples the host. -/
def step (s : State) : Host.Outcome State Fault Refusal :=
  match s.run with
  | .halted => .fault .halted
  | .running =>
    if memSize ≤ s.pc then .next s.halt
    else
      match exec (decodeCells (fetchCells s)) (s.advance (instrLen (fetchCells s).c0)) with
      | .next t => .next (hostSample t)
      | .fault f => .fault f
      | .refused r => .refused r

/-- `s` with the instruction of a word of the opcode table at its `pc`, running: what a load of that instruction and a
transfer to it leave. Cells above the last cell of memory are dropped. -/
def State.withFetchWord (s : State) (_nbits w : Nat) : State :=
  { s with run := .running, mem := s.mem.writeAll s.pc (tableCells w) }

end Sys2Proof.Machine
end

