-- ==== Sys2Proof/Safety.lean ====
section
/-! DEFINITION. What claims are stated in: the invariant of the machine, running under fuel, reachability, and a clean
run (R110, R199, R219). -/

namespace Sys2Proof.Machine

/-- The invariant of the machine: what reset has and every step keeps. -/
structure State.Inv (s : State) : Prop where
  /-- memory is in its canonical form and lists only its 256 cells (R34) -/
  mem : s.mem.wf
  /-- `pc ≤ 259` (R26) -/
  pc : s.pc ≤ 259
  /-- `0 ≤ sp ≤ 32` (R29, R154) -/
  sp : s.sp ≤ 32
  /-- `REG_CODE` is injective (D3) -/
  cfg : s.cfg.wf
  /-- a configured display has a positive size (R164) -/
  display : ∀ d ∈ s.display, 1 ≤ d.w ∧ 1 ≤ d.h
  /-- a delivered fault has halted the engine (R184, R191) -/
  faulted : s.faulted = true → s.run = .halted

/-- Runs until the engine halts or the fuel is spent (R219). -/
def runFor : Nat → State → State
  | 0, s => s
  | n + 1, s =>
    match step s with
    | .next t => runFor n t
    | .fault _ => s
    | .refused _ => s

/-- `t` is reached from `s` by some number of steps. -/
inductive Reaches (s : State) : State → Prop
  | refl : Reaches s s
  | step {t u : State} : Reaches s t → step t = .next u → Reaches s u

/-- The state a fault's delivery leaves, in full (R184, R185, R186): A = `code`, B = `pc`, C = `c`, one report,
halted, marked; every other field as it was. -/
def afterDelivery (code c : Val) (s : State) : State :=
  { s with
    regs := { s.regs with a := code, b := (s.pc : Val), c := c }
    run := .halted
    faulted := true
    out := s.out ++ [.errorReport code (s.pc : Val) c] }

/-- Every field but the registers is as it was: `pc`, `sp`, the stack, every memory cell, the run and service state,
the counter, the trace, the mark, the ports, the configuration. -/
def onlyRegs (s t : State) : Prop := t = { s with regs := t.regs }

/-- Register `r` takes the value, the other five keep theirs, and nothing else changes. -/
def writesReg (r : RegName) (v : Val) (s t : State) : Prop :=
  t.reg r = v ∧ (∀ q, q ≠ r → t.reg q = s.reg q) ∧ onlyRegs s t

/-- Executes instructions one after the other, without the fetches between them. -/
def execAll : List Instr → State → Option State
  | [], s => some s
  | i :: is, s =>
    match exec i s with
    | .next t => execAll is t
    | .fault _ => none
    | .refused _ => none

/-- R70, R71, R72: the cells `cs` are the instruction `i`, whatever cells follow them: as many cells as `cs` has. -/
def isWord (cs : List Val) (i : Instr) : Prop := ∀ rest, decode (cs ++ rest) = .ok (i, rest)

/-- R131: bit `k` of an integer in the infinite two's-complement representation, as the rule writes it. -/
def twosBit (n : Int) (k : Nat) : Int :=
  if 0 ≤ n then n / 2 ^ k % 2 else 1 - (-n - 1) / 2 ^ k % 2

/-- What R141 to R143 say of one branch: `taken` is its condition. -/
def branchRule (i : Instr) (op : Val) (taken : Prop) (target : Val) (s : State) : Prop :=
  (taken → ∀ a, targetOf target = some a → exec i s = .next { s with pc := a }) ∧
  (taken → targetOf target = none → exec i s = .next (afterDelivery 1 op s)) ∧
  (¬ taken → exec i s = .next s)

/-- R170: what a block service does before its transfer, `i` being the service. -/
def blockRule (i : Instr) (s : State) : Prop :=
  (isIntIn 0 9 s.regs.a = false → exec i s = .next (afterDelivery 0x81 0 s)) ∧
  (isIntIn 0 9 s.regs.a = true → isIntIn 0 15 s.regs.b = false → exec i s = .next (afterDelivery 0x82 0 s)) ∧
  (isIntIn 0 9 s.regs.a = true → isIntIn 0 15 s.regs.b = true → isIntIn 0 254 s.regs.c = false →
    exec i s = .next (afterDelivery 0x83 0 s)) ∧
  ∀ ports : Ports, isIntIn 0 9 s.regs.a = true → isIntIn 0 15 s.regs.b = true → isIntIn 0 254 s.regs.c = true →
    s.ports.nextExists = (false, ports) →
    exec i s = .next (afterDelivery 0x84 0 { s with out := s.out ++ [.blockExists s.regs.a.num], ports := ports })

/-- R168 to R170: the port calls a block service, of code `service`, has made in `s` when it fails with `code`. -/
def blockCalls (service code : Val) (s : State) : List Event :=
  if code = 0x84 then [.blockExists s.regs.a.num]
  else if code = 0x85 then
    [.blockExists s.regs.a.num,
      if service = 0x80 then .blockReadByte s.regs.a.num s.regs.b.num s.regs.c.num
      else .blockWriteByte s.regs.a.num s.regs.b.num s.regs.c.num s.regs.d]
  else []

/-- R195: whether the quit signal is raised at the sample that follows in `s`, which asks for the present first. -/
def quitRaised (s : State) : Bool := s.ports.nextPresent.2.nextQuit.1

/-- The target of a branch with register operands `c1`, `c2`, if it is taken to a valid one (R140 to R143). -/
def branchTo (taken : Val → Val → Prop) [DecidableRel taken] (c1 c2 target : Val) (s : State) : Option Nat :=
  match regOf s.cfg c1, regOf s.cfg c2 with
  | some i, some j => if taken (s.reg i) (s.reg j) then targetOf target else none
  | _, _ => none

/-- R25, R141 to R146: where an instruction transfers to; none where it transfers nowhere: it is no transfer, a branch
not taken, or faulting. -/
def transferOf (i : Instr) (s : State) : Option Nat :=
  match i with
  | .bne c1 c2 target => branchTo (· ≠ ·) c1 c2 target s
  | .beq c1 c2 target => branchTo (· = ·) c1 c2 target s
  | .blt c1 c2 target => branchTo (· < ·) c1 c2 target s
  | .jmp target => targetOf target
  | .jsr target => if s.sp = 0 then none else targetOf target
  | .ret => if s.sp < 32 then targetOf (s.slot s.sp) else none
  | .halt | .ldw _ _ | .mov _ _ | .add _ _ | .sub _ _ | .str _ _ | .ldr _ _ | .int _ | .push _ | .pop _ | .xor _ _
  | .and _ _ | .mul _ _ | .div _ _ | .intPrintChar | .intPrintInt | .intDisplayInit | .intSetPixel | .intDrawChar
  | .intKeyPoll | .intBlockRead | .intBlockWrite | .intError | .intHalt | .intUnknown _ | .illegal _ => none

/-- The run has ended without a fault (R199): halted, and no delivery has occurred. -/
abbrev State.cleanHalt (s : State) : Prop := s.run = .halted ∧ s.faulted = false

end Sys2Proof.Machine
end

