-- ==== Sys2Proof/Certificates/Slice0/Obligations.lean ====
section
/-! DEFINITION. The statements for the provers. `s` in a statement about `exec` is the state in which an instruction
executes: its `pc` is the advanced pc (R24). -/

open Sys2Proof Sys2Proof.Machine

/-! ### Reset, loading, the invariant -/

/-- R211, R37, R23, R27: a program of at most 256 integer cells is loaded verbatim from address 0 over zeros into the
reset state; any other is refused. The slots, the service state, the counter, the trace (D11, D18, D19: assumption 18) and
the refusals (D20: assumption 11) are the spec's decisions; the mark (assumption 12) and the configuration
(assumptions 1, 16) are the model's own fields. -/
def Obligations.LoadingGivesResetStateWithProgram : Prop :=
  ∀ (cfg : Config) (p : List Val),
    (p.length ≤ 256 → (∀ v ∈ p, isInt v = true) →
      ∃ t, loadProgram cfg p = .next t ∧
        (∀ k, (h : k < p.length) → t.cell k = p[k]) ∧ (∀ k, p.length ≤ k → t.cell k = 0) ∧
        (∀ r, t.reg r = 0) ∧ t.pc = 0 ∧ t.sp = 32 ∧ (∀ k, t.slot k = 0) ∧ t.run = .running ∧
        t.display = none ∧ t.lastKey = none ∧ t.cycles = 0 ∧ t.out = [] ∧ t.faulted = false ∧ t.cfg = cfg) ∧
    (256 < p.length → loadProgram cfg p = .refused .programTooLong) ∧
    (p.length ≤ 256 → (∃ v ∈ p, isInt v = false) → loadProgram cfg p = .refused .programNotInteger)

/-- The invariant holds in the reset state and in every state a load gives (with an injective `REG_CODE`). -/
def Obligations.ResetAndLoadedStatesMeetInvariant : Prop :=
  State.reset.Inv ∧ ∀ cfg p t, cfg.wf → loadProgram cfg p = .next t → t.Inv

/-- Every step keeps the invariant: canonical memory, `pc ≤ 259` (R26), `sp ≤ 32` (R29, R154), an injective `REG_CODE`,
a positive display size (R164), and a marked machine halted (R191). -/
def Obligations.StepKeepsInvariant : Prop :=
  ∀ s t, s.Inv → step s = .next t → t.Inv

/-! ### Encoding -/

/-- Decoding the cells of an instruction gives it back, with every operand at every cell value; an INT word gives the
row of its service. -/
def Obligations.DecodeOfEncodeGivesInstructionBack : Prop :=
  ∀ (i : Instr) (rest : List Val), i.ownRow = true →
    decode (encode i ++ rest) = .ok (i.decodedRow, rest) ∧ (encode i).length = instrLen i.opcode

/-- Every cell sequence is an instruction of its own row with that opcode cell and the operand cells of its format
(R72), pads as 0; and its encoding decodes to it again. -/
def Obligations.DecodedCellsEncodeBack : Prop :=
  ∀ c : Cells,
    (decodeCells c).ownRow = true ∧ (decodeCells c).opcode = c.c0 ∧
    (decodeCells c).operands =
      (if c.c0 ∈ [0x08, 0x09, 0x14] then [c.c1, c.c2, c.c3]
       else if c.c0 ∈ [0x01, 0x02, 0x03, 0x04, 0x05, 0x06, 0x0F, 0x10, 0x12, 0x13] then [c.c1, c.c2]
       else if c.c0 ∈ [0x0A, 0x0B, 0x0C, 0x0D, 0x11] then [c.c1, 0]
       else [0, 0]) ∧
    decode (encode (decodeCells c)) = .ok (decodeCells c, [])

/-- R75: the value of a pad cell changes nothing. -/
def Obligations.PadCellsAreIgnored : Prop :=
  ∀ (c0 c1 c2 c3 p1 p2 p3 : Val),
    (c0 = 0x00 ∨ c0 = 0x0E → decodeCells ⟨c0, p1, p2, p3⟩ = decodeCells ⟨c0, c1, c2, c3⟩) ∧
    (c0 = 0x0A ∨ c0 = 0x0B ∨ c0 = 0x0C ∨ c0 = 0x0D ∨ c0 = 0x11 →
      decodeCells ⟨c0, c1, p2, p3⟩ = decodeCells ⟨c0, c1, c2, c3⟩)

/-- Words written out from R72 and R76, one of each format. -/
def Obligations.SampleWordsDecode : Prop :=
  decode [0, 0, 0] = .ok (.halt, []) ∧ decode [1, 0, 5] = .ok (.ldw 0 5, []) ∧
  decode [3, 0, 1, 7] = .ok (.add 0 1, [7]) ∧ decode [5, 0, 200] = .ok (.str 0 200, []) ∧
  decode [20, 0, 1, 30] = .ok (.blt 0 1 30, []) ∧ decode [10, 128, 0] = .ok (.intBlockRead, []) ∧
  decode [10, 2, 0] = .ok (.intUnknown 2, []) ∧ decode [11, 1, 0] = .ok (.push 1, []) ∧
  decode [13, 18, 0] = .ok (.jsr 18, []) ∧ decode [7, 0, 0] = .ok (.illegal 7, []) ∧
  decode [20, 0, 1] = .error (.truncated 20)

/-! ### Operands -/

/-- R74 (decision D3): a register code is valid exactly when it is an integer in 0..5, whatever `REG_CODE`; with the
default one 0..5 name A..F, and an injective one names each register by exactly one code. -/
def Obligations.RegisterCodesNameRegisters : Prop :=
  (∀ (cfg : Config) (c : Val), (∃ r, regOf cfg c = some r) ↔ isIntIn 0 5 c = true) ∧
  (regOf Config.default 0 = some .A ∧ regOf Config.default 1 = some .B ∧ regOf Config.default 2 = some .C ∧
    regOf Config.default 3 = some .D ∧ regOf Config.default 4 = some .E ∧ regOf Config.default 5 = some .F) ∧
  (∀ (cfg : Config) (r : RegName), cfg.wf → ∃ c, regOf cfg c = some r ∧ ∀ c', regOf cfg c' = some r → c' = c)

/-- R55, R140 (decision D8): an address or a target is admitted exactly when it is an integer in 0..255. -/
def Obligations.AddressesAndTargetsAreCells : Prop :=
  ∀ (v : Val) (a : Nat), (addrOf v = some a ↔ v = (a : Val) ∧ a ≤ 255) ∧ (targetOf v = some a ↔ v = (a : Val) ∧ a ≤ 255)

/-- R131 (decision D12): `xor` and `and` act bit by bit, and the bits determine the integer. -/
def Obligations.XorAndAndActBitwise : Prop :=
  (∀ (m n : Int) (k : Nat),
    twosBit (xorInt m n) k = (if twosBit m k = twosBit n k then 0 else 1) ∧
    twosBit (andInt m n) k = twosBit m k * twosBit n k) ∧
  ∀ m n : Int, (∀ k, twosBit m k = twosBit n k) → m = n

/-! ### The step -/

/-- R102, R100: a running engine with `pc ≤ 255` executes the instruction whose cells stand at `pc` (a missing cell is
0) in the state with `pc` advanced by its length and one cycle counted (R35, decision D18: assumption 18), and then
samples the host (R105, decision D17: assumption 10). -/
def Obligations.StepRunsDecodedInstruction : Prop :=
  ∀ (s : State) (i : Instr) (rest : List Val), s.run = .running → s.pc ≤ 255 →
    decode ((List.range 4).map fun k => if s.pc + k ≤ 255 then s.cell (s.pc + k) else 0) = .ok (i, rest) →
    ∃ t, exec i { s with pc := s.pc + instrLen (s.cell s.pc), cycles := s.cycles + 1 } = .next t ∧
      step s = .next (hostSample t)

/-- R101: with `pc ≥ 256` a running engine halts and nothing else changes. -/
def Obligations.EndOfMemoryHaltsSilently : Prop :=
  ∀ s : State, s.run = .running → 256 ≤ s.pc → step s = .next { s with run := .halted }

/-- A step answers a next state exactly while the engine runs; it never refuses, and its one fault is that a halted
engine makes no step (R110, R31: terminal; that this is the outcome `fault` is the model's form of it, assumption 9). -/
def Obligations.StepStopsOnlyWhenHalted : Prop :=
  ∀ s : State, (s.run = .running → ∃ t, step s = .next t) ∧ (s.run = .halted → step s = .fault .halted)

/-- R105, R195 (decision D17), R218: with no display `HostSample` does nothing; with one, whatever the answers are, it
at most appends one `present` and, exactly when quit is raised, halts; both answers are admitted. -/
def Obligations.HostSampleOnlyWithDisplay : Prop :=
  ∀ s : State,
    (s.display = none → hostSample s = s) ∧
    (s.display ≠ none →
      (∃ (shown quit : Bool) (ports : Ports),
        hostSample s =
          { s with
            out := s.out ++ (if shown then [.present] else [])
            run := if quit then .halted else s.run
            ports := ports }) ∧
      ∀ (shown quit : Bool) (ps qs : List Bool), s.ports.presents = shown :: ps → s.ports.quits = quit :: qs →
        hostSample s =
          { s with
            out := s.out ++ (if shown then [.present] else [])
            run := if quit then .halted else s.run
            ports := { s.ports with presents := ps, quits := qs } })

/-- R160: a port's answer is the next one of its script; where the script is empty it is a free value (assumption 6).
No other script is touched. -/
def Obligations.PortAnswersAreScriptedOrFree : Prop :=
  ∀ p : Ports,
    (∀ x xs, p.keys = x :: xs → p.nextKeys = (x, { p with keys := xs })) ∧
    (p.keys = [] → p.nextKeys = (Config.freeKeys p.draws, { p with draws := p.draws + 1 })) ∧
    (∀ x xs, p.devices = x :: xs → p.nextExists = (x, { p with devices := xs })) ∧
    (p.devices = [] → p.nextExists = (Config.freeExists p.draws, { p with draws := p.draws + 1 })) ∧
    (∀ x xs, p.reads = x :: xs → p.nextRead = (x, { p with reads := xs })) ∧
    (p.reads = [] → p.nextRead = (Config.freeRead p.draws, { p with draws := p.draws + 1 })) ∧
    (∀ x xs, p.writes = x :: xs → p.nextWrite = (x, { p with writes := xs })) ∧
    (p.writes = [] → p.nextWrite = (Config.freeWrite p.draws, { p with draws := p.draws + 1 }))

/-! ### HALT and the invalid opcodes -/

/-- R106: HALT is three cells with two pads; it writes `run` only, and a step that fetches it, truncated at the end of
memory or not, leaves `pc` advanced by 3. -/
def Obligations.HaltStopsTheEngine : Prop :=
  (∀ p q : Val, isWord [0x00, p, q] .halt) ∧ (∀ s : State, exec .halt s = .next { s with run := .halted }) ∧
  ∀ s : State, s.run = .running → s.pc ≤ 255 → s.display = none → s.cell s.pc = 0x00 →
    step s = .next { s with pc := s.pc + 3, cycles := s.cycles + 1, run := .halted }

/-- R108 (decisions D4, D5, D28): an opcode cell outside R76 is ILLEGAL, three cells long, and its execution delivers
Fault(2) with the cell's value in C. -/
def Obligations.IllegalOpcodeIsDelivered : Prop :=
  (∀ (op : Val) (s : State), exec (.illegal op) s = .next (afterDelivery 2 op s)) ∧
  ∀ c : Cells, (¬ ∃ k : Nat, k ≤ 0x14 ∧ k ≠ 0x07 ∧ c.c0 = (k : Val)) → decodeCells c = .illegal c.c0 ∧ instrLen c.c0 = 3

/-! ### Data movement -/

/-- R120: three cells; the whole immediate cell, any value, goes into the register; a bad register code delivers
Fault(2). -/
def Obligations.LdwLoadsItsImmediate : Prop :=
  ∀ (c1 imm : Val) (s : State), isWord [0x01, c1, imm] (.ldw c1 imm) ∧
    (∀ r, regOf s.cfg c1 = some r → ∃ t, exec (.ldw c1 imm) s = .next t ∧ writesReg r imm s t) ∧
    (regOf s.cfg c1 = none → exec (.ldw c1 imm) s = .next (afterDelivery 2 0x01 s))

/-- R121 (decision D24). -/
def Obligations.MovCopiesARegister : Prop :=
  ∀ (c1 c2 : Val) (s : State), isWord [0x02, c1, c2] (.mov c1 c2) ∧
    (∀ i j, regOf s.cfg c1 = some i → regOf s.cfg c2 = some j →
      ∃ t, exec (.mov c1 c2) s = .next t ∧ writesReg i (s.reg j) s t) ∧
    (regOf s.cfg c1 = none ∨ regOf s.cfg c2 = none → exec (.mov c1 c2) s = .next (afterDelivery 2 0x02 s))

/-- R122: the cell that the address operand names takes the whole register value, every other cell reads as before,
also for the next fetch (R63), and no other state changes. -/
def Obligations.StrStoresAtItsAddressOnly : Prop :=
  ∀ (c1 addr : Val) (s : State), s.mem.wf → isWord [0x05, c1, addr] (.str c1 addr) ∧
    (∀ r a, regOf s.cfg c1 = some r → addrOf addr = some a →
      ∃ t, exec (.str c1 addr) s = .next t ∧ t.cell a = s.reg r ∧ (∀ b, b ≠ a → t.cell b = s.cell b) ∧
        fetchCell t a = s.reg r ∧ t.mem.wf ∧ t = { s with mem := t.mem }) ∧
    (regOf s.cfg c1 = none → exec (.str c1 addr) s = .next (afterDelivery 2 0x05 s)) ∧
    (∀ r, regOf s.cfg c1 = some r → addrOf addr = none → exec (.str c1 addr) s = .next (afterDelivery 1 0x05 s))

/-- R123. -/
def Obligations.LdrLoadsTheCell : Prop :=
  ∀ (c1 addr : Val) (s : State), isWord [0x06, c1, addr] (.ldr c1 addr) ∧
    (∀ r a, regOf s.cfg c1 = some r → addrOf addr = some a →
      ∃ t, exec (.ldr c1 addr) s = .next t ∧ writesReg r (s.cell a) s t) ∧
    (regOf s.cfg c1 = none → exec (.ldr c1 addr) s = .next (afterDelivery 2 0x06 s)) ∧
    (∀ r, regOf s.cfg c1 = some r → addrOf addr = none → exec (.ldr c1 addr) s = .next (afterDelivery 1 0x06 s))

/-! ### Arithmetic and logic -/

/-- R132, R133, R136, R130: the exact sum, difference and product of two registers into the first. That ADD and SUB
take two registers is decision D24 (assumption 19), exactness on rationals D1 (assumption 21), the category of a bad code
D4 (assumption 13). -/
def Obligations.AddSubMulAreExact : Prop :=
  ∀ (c1 c2 : Val) (s : State),
    (isWord [0x03, c1, c2] (.add c1 c2) ∧ isWord [0x04, c1, c2] (.sub c1 c2) ∧ isWord [0x12, c1, c2] (.mul c1 c2)) ∧
    (∀ i j, regOf s.cfg c1 = some i → regOf s.cfg c2 = some j →
      (∃ t, exec (.add c1 c2) s = .next t ∧ writesReg i (s.reg i + s.reg j) s t) ∧
      (∃ t, exec (.sub c1 c2) s = .next t ∧ writesReg i (s.reg i - s.reg j) s t) ∧
      (∃ t, exec (.mul c1 c2) s = .next t ∧ writesReg i (s.reg i * s.reg j) s t)) ∧
    (regOf s.cfg c1 = none ∨ regOf s.cfg c2 = none →
      exec (.add c1 c2) s = .next (afterDelivery 2 0x03 s) ∧
      exec (.sub c1 c2) s = .next (afterDelivery 2 0x04 s) ∧
      exec (.mul c1 c2) s = .next (afterDelivery 2 0x12 s))

/-- R134, R135 (decision D12): the bitwise operations of `XorAndAndActBitwise` on two integers; Fault(1) otherwise. -/
def Obligations.XorAndNeedIntegers : Prop :=
  ∀ (c1 c2 : Val) (s : State), (isWord [0x0F, c1, c2] (.xor c1 c2) ∧ isWord [0x10, c1, c2] (.and c1 c2)) ∧
    (∀ i j, regOf s.cfg c1 = some i → regOf s.cfg c2 = some j →
      (∀ m n : Int, s.reg i = (m : Val) → s.reg j = (n : Val) →
        (∃ t, exec (.xor c1 c2) s = .next t ∧ writesReg i (xorInt m n : Int) s t) ∧
        (∃ t, exec (.and c1 c2) s = .next t ∧ writesReg i (andInt m n : Int) s t)) ∧
      (isInt (s.reg i) = false ∨ isInt (s.reg j) = false →
        exec (.xor c1 c2) s = .next (afterDelivery 1 0x0F s) ∧
        exec (.and c1 c2) s = .next (afterDelivery 1 0x10 s))) ∧
    (regOf s.cfg c1 = none ∨ regOf s.cfg c2 = none →
      exec (.xor c1 c2) s = .next (afterDelivery 2 0x0F s) ∧
      exec (.and c1 c2) s = .next (afterDelivery 2 0x10 s))

/-- R137, R138 (decision D2): a zero divisor delivers Fault(4) and updates no operand register; otherwise the quotient
is `DivResult` of the operands: exact by default, else a free value of the two operands. -/
def Obligations.DivDividesOrFaults : Prop :=
  ∀ (c1 c2 : Val) (s : State), isWord [0x13, c1, c2] (.div c1 c2) ∧
    (∀ i j, regOf s.cfg c1 = some i → regOf s.cfg c2 = some j →
      (s.reg j ≠ 0 → s.cfg.div = .exact →
        ∃ t, exec (.div c1 c2) s = .next t ∧ writesReg i (s.reg i / s.reg j) s t) ∧
      (s.reg j ≠ 0 → s.cfg.div = .other →
        ∃ t, exec (.div c1 c2) s = .next t ∧ writesReg i (Config.freeDivResult (s.reg i) (s.reg j)) s t) ∧
      (s.reg j = 0 → exec (.div c1 c2) s = .next (afterDelivery 4 0x13 s))) ∧
    (regOf s.cfg c1 = none ∨ regOf s.cfg c2 = none → exec (.div c1 c2) s = .next (afterDelivery 2 0x13 s))

/-! ### Control transfer -/

/-- R141, R142, R143: four cells; a branch is taken exactly when its relation holds, to its absolute target, which is
checked only then (which targets are valid is decision D8: AddressesAndTargetsAreCells); otherwise nothing changes. -/
def Obligations.BranchesCompareTwoRegisters : Prop :=
  ∀ (c1 c2 target : Val) (s : State),
    (isWord [0x08, c1, c2, target] (.bne c1 c2 target) ∧ isWord [0x09, c1, c2, target] (.beq c1 c2 target) ∧
      isWord [0x14, c1, c2, target] (.blt c1 c2 target)) ∧
    (∀ i j, regOf s.cfg c1 = some i → regOf s.cfg c2 = some j →
      branchRule (.bne c1 c2 target) 0x08 (s.reg i ≠ s.reg j) target s ∧
      branchRule (.beq c1 c2 target) 0x09 (s.reg i = s.reg j) target s ∧
      branchRule (.blt c1 c2 target) 0x14 (s.reg i < s.reg j) target s) ∧
    (regOf s.cfg c1 = none ∨ regOf s.cfg c2 = none →
      exec (.bne c1 c2 target) s = .next (afterDelivery 2 0x08 s) ∧
      exec (.beq c1 c2 target) s = .next (afterDelivery 2 0x09 s) ∧
      exec (.blt c1 c2 target) s = .next (afterDelivery 2 0x14 s))

/-- R144 (decision D8). -/
def Obligations.JmpGoesToItsTarget : Prop :=
  ∀ (target : Val) (s : State), (∀ p : Val, isWord [0x11, target, p] (.jmp target)) ∧
    (∀ a, targetOf target = some a → exec (.jmp target) s = .next { s with pc := a }) ∧
    (targetOf target = none → exec (.jmp target) s = .next (afterDelivery 1 0x11 s))

/-- R145 (decisions D6, D7, D8): the target is checked first, then the stack; the advanced pc is pushed. -/
def Obligations.JsrPushesTheReturnAddress : Prop :=
  ∀ (target : Val) (s : State), s.sp ≤ 32 → (∀ p : Val, isWord [0x0D, target, p] (.jsr target)) ∧
    (∀ a, targetOf target = some a → s.sp ≠ 0 →
      ∃ t, exec (.jsr target) s = .next t ∧ t.pc = a ∧ t.sp = s.sp - 1 ∧ t.slot t.sp = (s.pc : Val) ∧
        (∀ k, k ≠ t.sp → t.slot k = s.slot k) ∧ t = { s with pc := a, sp := t.sp, stack := t.stack }) ∧
    (targetOf target = none → exec (.jsr target) s = .next (afterDelivery 1 0x0D s)) ∧
    (∀ a, targetOf target = some a → s.sp = 0 → exec (.jsr target) s = .next (afterDelivery 3 0x0D s))

/-- R146 (decisions D6, D7, D8): the stack is checked first, then the popped target; the slot keeps its value. -/
def Obligations.RetPopsItsTarget : Prop :=
  ∀ s : State, (∀ p q : Val, isWord [0x0E, p, q] .ret) ∧
    (∀ a, s.sp < 32 → targetOf (s.slot s.sp) = some a → exec .ret s = .next { s with pc := a, sp := s.sp + 1 }) ∧
    (32 ≤ s.sp → exec .ret s = .next (afterDelivery 3 0x0E s)) ∧
    (s.sp < 32 → targetOf (s.slot s.sp) = none → exec .ret s = .next (afterDelivery 1 0x0E s))

/-! ### Stack -/

/-- R152, R150 (decisions D6, D7). -/
def Obligations.PushStoresBelowSp : Prop :=
  ∀ (c1 : Val) (s : State), s.sp ≤ 32 → (∀ p : Val, isWord [0x0B, c1, p] (.push c1)) ∧
    (∀ r, regOf s.cfg c1 = some r → s.sp ≠ 0 →
      ∃ t, exec (.push c1) s = .next t ∧ t.sp = s.sp - 1 ∧ t.slot t.sp = s.reg r ∧
        (∀ k, k ≠ t.sp → t.slot k = s.slot k) ∧ t = { s with sp := t.sp, stack := t.stack }) ∧
    (regOf s.cfg c1 = none → exec (.push c1) s = .next (afterDelivery 2 0x0B s)) ∧
    (∀ r, regOf s.cfg c1 = some r → s.sp = 0 → exec (.push c1) s = .next (afterDelivery 3 0x0B s))

/-- R153, R151 (decisions D6, D7): the slot keeps its value. -/
def Obligations.PopLoadsTheTop : Prop :=
  ∀ (c1 : Val) (s : State), (∀ p : Val, isWord [0x0C, c1, p] (.pop c1)) ∧
    (∀ r, regOf s.cfg c1 = some r → s.sp < 32 →
      ∃ t, exec (.pop c1) s = .next t ∧ t.reg r = s.slot s.sp ∧ (∀ q, q ≠ r → t.reg q = s.reg q) ∧
        t = { s with regs := t.regs, sp := s.sp + 1 }) ∧
    (regOf s.cfg c1 = none → exec (.pop c1) s = .next (afterDelivery 2 0x0C s)) ∧
    (∀ r, regOf s.cfg c1 = some r → 32 ≤ s.sp → exec (.pop c1) s = .next (afterDelivery 3 0x0C s))

/-- R154 (2), (3): PUSHes lay the registers' values down from `sp`, the last one on top; as many POPs meet no fault,
bring `sp` back and leave every slot. -/
def Obligations.PushesAndPopsBalance : Prop :=
  ∀ (s : State) (cs : List (Val × RegName)) (ds : List Val), s.sp ≤ 32 → cs.length ≤ s.sp → ds.length = cs.length →
    (∀ c ∈ cs, regOf s.cfg c.1 = some c.2) → (∀ d ∈ ds, regOf s.cfg d ≠ none) →
    ∃ t u, execAll (cs.map fun c => .push c.1) s = some t ∧ t.sp + cs.length = s.sp ∧
      (∀ k, (h : k < cs.length) → t.slot (s.sp - 1 - k) = s.reg cs[k].2) ∧ (∀ k, s.sp ≤ k → t.slot k = s.slot k) ∧
      t = { s with sp := t.sp, stack := t.stack } ∧
      execAll (ds.map .pop) t = some u ∧ u.sp = s.sp ∧ u = { t with sp := u.sp, regs := u.regs }

/-- R145, R146, R154 (4): a subroutine entered by JSR whose first instruction is RET comes back to the instruction
after the call, with the stack pointer and every outstanding slot as before. -/
def Obligations.RetReturnsFromJsr : Prop :=
  ∀ (target : Val) (a : Nat) (s t : State), s.sp ≤ 32 → s.sp ≠ 0 → s.pc ≤ 255 → targetOf target = some a →
    exec (.jsr target) s = .next t →
    ∃ u, exec .ret (t.advance 3) = .next u ∧ u.pc = s.pc ∧ u.sp = s.sp ∧ u.regs = s.regs ∧ u.mem = s.mem ∧
      u.run = s.run ∧ ∀ k, s.sp ≤ k → u.slot k = s.slot k

/-! ### INT -/

/-- R161, R173: the code cell selects the service by equality; any other code is the unknown row, a non-integer one
included; and the row an INT word decodes to, its service's (the model's choice: assumption 5), has the same meaning. -/
def Obligations.IntSelectsItsService : Prop :=
  (∀ s : State,
    exec (.int 0x00) s = exec .intPrintChar s ∧ exec (.int 0x01) s = exec .intPrintInt s ∧
    exec (.int 0x70) s = exec .intDisplayInit s ∧ exec (.int 0x71) s = exec .intSetPixel s ∧
    exec (.int 0x72) s = exec .intDrawChar s ∧ exec (.int 0xF6) s = exec .intKeyPoll s ∧
    exec (.int 0x80) s = exec .intBlockRead s ∧ exec (.int 0x81) s = exec .intBlockWrite s ∧
    exec (.int 0xFE) s = exec .intError s ∧ exec (.int 0xFF) s = exec .intHalt s) ∧
  (∀ (code : Val) (s : State), isListedService code = false →
    exec (.int code) s = .next (afterDelivery 1 0x0A s) ∧
    exec (.intUnknown code) s = .next (afterDelivery 1 0x0A s)) ∧
  (∀ (code pad x : Val) (s : State), ∃ t,
    exec (.int code) s = .next t ∧ exec (decodeCells ⟨0x0A, code, pad, x⟩) s = .next t)

/-- R162, R163 (decisions D14, D25): one event, no other change; print-char needs an integer. -/
def Obligations.PrintServicesEmitA : Prop :=
  ∀ s : State,
    (∀ n : Int, s.regs.a = (n : Val) → exec .intPrintChar s = .next { s with out := s.out ++ [.printChar n] }) ∧
    (isInt s.regs.a = false → exec .intPrintChar s = .next (afterDelivery 1 0x0A s)) ∧
    exec .intPrintInt s = .next { s with out := s.out ++ [.printInt s.regs.a] }

/-- R164 (decision D14). -/
def Obligations.DisplayInitConfiguresDisplay : Prop :=
  ∀ s : State,
    (∀ w h : Int, s.regs.a = 0 → s.regs.b = (w : Val) → s.regs.c = (h : Val) → 1 ≤ w → 1 ≤ h →
      exec .intDisplayInit s =
        .next { s with out := s.out ++ [.displayInit 0 w h], display := some ⟨.pixel, w, h⟩ }) ∧
    (∀ w h : Int, s.regs.a = 1 → s.regs.b = (w : Val) → s.regs.c = (h : Val) → 1 ≤ w → 1 ≤ h →
      exec .intDisplayInit s =
        .next { s with out := s.out ++ [.displayInit 1 w h], display := some ⟨.text, w, h⟩ }) ∧
    ((s.regs.a ≠ 0 ∧ s.regs.a ≠ 1) ∨ isInt s.regs.b = false ∨ isInt s.regs.c = false ∨ s.regs.b < 1 ∨ s.regs.c < 1 →
      exec .intDisplayInit s = .next (afterDelivery 1 0x0A s))

/-- R165 (decision D14). -/
def Obligations.SetPixelChecksItsBounds : Prop :=
  ∀ s : State,
    (∀ w h x y color : Int, s.display = some ⟨.pixel, w, h⟩ → s.regs.a = (color : Val) → s.regs.b = (x : Val) →
      s.regs.c = (y : Val) → 0 ≤ x → x < w → 0 ≤ y → y < h →
      exec .intSetPixel s = .next { s with out := s.out ++ [.setPixel x y color] }) ∧
    (s.display = none ∨ (∃ w h, s.display = some ⟨.text, w, h⟩) →
      exec .intSetPixel s = .next (afterDelivery 1 0x0A s)) ∧
    (∀ w h : Int, s.display = some ⟨.pixel, w, h⟩ →
      isInt s.regs.a = false ∨ isInt s.regs.b = false ∨ isInt s.regs.c = false ∨
        s.regs.b < 0 ∨ (w : Val) ≤ s.regs.b ∨ s.regs.c < 0 ∨ (h : Val) ≤ s.regs.c →
      exec .intSetPixel s = .next (afterDelivery 1 0x0A s))

/-- R166 (decisions D14, D27): an index out of range, a negative one too, is clamped to the last cell, `NCells − 1`;
`NCells` is `w * h` by default and positive in every configuration. -/
def Obligations.DrawCharClampsItsIndex : Prop :=
  ∀ s : State,
    (∀ w h char idx color : Int, s.display = some ⟨.text, w, h⟩ → s.regs.a = (char : Val) → s.regs.b = (idx : Val) →
      s.regs.c = (color : Val) →
      ∃ cell : Int,
        exec .intDrawChar s = .next { s with out := s.out ++ [.drawChar cell char color, .present] } ∧
        (0 ≤ idx → idx < nCells s.cfg w h → cell = idx) ∧
        (idx < 0 ∨ nCells s.cfg w h ≤ idx → cell = nCells s.cfg w h - 1)) ∧
    (∀ w h : Int, 1 ≤ w → 1 ≤ h → 0 < nCells s.cfg w h ∧ (s.cfg.nCells = .product → nCells s.cfg w h = w * h)) ∧
    (s.display = none ∨ (∃ w h, s.display = some ⟨.pixel, w, h⟩) ∨
        isInt s.regs.a = false ∨ isInt s.regs.b = false ∨ isInt s.regs.c = false →
      exec .intDrawChar s = .next (afterDelivery 1 0x0A s))

/-- R167 (decision D15): for every answer of the port. -/
def Obligations.KeyPollReportsTheLeastKey : Prop :=
  ∀ (s : State) (keys : List Int) (ports : Ports), s.ports.nextKeys = (keys, ports) →
    ∃ t, exec .intKeyPoll s = .next t ∧
      (keys = [] → t.reg .A = 0 ∧ t.reg .B = 0 ∧ t.lastKey = none) ∧
      (∀ k ∈ keys, (∀ j ∈ keys, k ≤ j) →
        t.reg .A = (k : Val) ∧ t.reg .B = (if s.lastKey = some k then 0 else 1) ∧ t.lastKey = some k) ∧
      (∀ q, q ≠ .A → q ≠ .B → t.reg q = s.reg q) ∧
      t = { s with regs := t.regs, lastKey := t.lastKey, out := s.out ++ [.pressedKeycodes], ports := ports }

/-- R168, R170, R186: the first failing test decides the code, and no port is called before the range tests pass; with
the device present E takes the byte read, or code 0x85 is delivered. The answers as scripts are the model's choice
(assumption 6), the recorded existence query is read from R160 by inference (assumption 8). -/
def Obligations.BlockReadValidatesThenReads : Prop :=
  ∀ s : State, blockRule .intBlockRead s ∧
    ∀ (d sec o : Int) (p q : Ports), s.regs.a = (d : Val) → s.regs.b = (sec : Val) → s.regs.c = (o : Val) →
      0 ≤ d → d ≤ 9 → 0 ≤ sec → sec ≤ 15 → 0 ≤ o → o ≤ 254 → s.ports.nextExists = (true, p) →
      (∀ byte : Fin 256, p.nextRead = (some byte, q) →
        ∃ t, exec .intBlockRead s = .next t ∧ t.reg .E = (byte.val : Val) ∧ (∀ r, r ≠ .E → t.reg r = s.reg r) ∧
          t = { s with regs := t.regs, out := s.out ++ [.blockExists d, .blockReadByte d sec o], ports := q }) ∧
      (p.nextRead = (none, q) →
        exec .intBlockRead s =
          .next (afterDelivery 0x85 0
            { s with out := s.out ++ [.blockExists d, .blockReadByte d sec o], ports := q }))

/-- R169, R170, R186 (decision D16: assumption 20): as block-read, assumptions 6 and 8 too; the value of D is passed
unchecked, and no register changes. -/
def Obligations.BlockWriteValidatesThenWrites : Prop :=
  ∀ s : State, blockRule .intBlockWrite s ∧
    ∀ (d sec o : Int) (p q : Ports), s.regs.a = (d : Val) → s.regs.b = (sec : Val) → s.regs.c = (o : Val) →
      0 ≤ d → d ≤ 9 → 0 ≤ sec → sec ≤ 15 → 0 ≤ o → o ≤ 254 → s.ports.nextExists = (true, p) →
      (p.nextWrite = (true, q) →
        exec .intBlockWrite s =
          .next { s with
            out := s.out ++ [.blockExists d, .blockWriteByte d sec o s.regs.d]
            ports := q }) ∧
      (p.nextWrite = (false, q) →
        exec .intBlockWrite s =
          .next (afterDelivery 0x85 0
            { s with out := s.out ++ [.blockExists d, .blockWriteByte d sec o s.regs.d], ports := q }))

/-- R171, R172: the error interrupt reports A, B, C and halts, the halt service halts; neither writes a register, and
neither is a fault of the engine (R199). The report as an event is decision D25 (assumption 20), the unset mark is the
model's own field (assumption 12). -/
def Obligations.ErrorAndHaltServicesStop : Prop :=
  ∀ s : State,
    exec .intError s =
      .next { s with out := s.out ++ [.errorReport s.regs.a s.regs.b s.regs.c], run := .halted } ∧
    exec .intHalt s = .next { s with run := .halted }

/-! ### Rules of the whole machine -/

/-- R181, R184, R185, R186, R110: what a step that delivers a fault leaves, whichever instruction it was. The trace gains
the port calls of a block service that failed, one report, and at most one `present` of the loop, which only a display
makes possible. (Decisions D6 and D28: assumption 13; the mark: assumption 12; the calls and `present` in the trace:
assumptions 8 and 10.) -/
def Obligations.FaultDeliveryIsPrecise : Prop :=
  ∀ s t : State, s.faulted = false → step s = .next t → t.faulted = true →
    t.pc = s.pc + instrLen (s.cell s.pc) ∧ t.cycles = s.cycles + 1 ∧ t.run = .halted ∧
    t.reg .B = (t.pc : Val) ∧
    (∃ calls shown : List Event,
      t.out = s.out ++ calls ++ [.errorReport (t.reg .A) (t.reg .B) (t.reg .C)] ++ shown ∧
      (shown = [] ∨ (shown = [.present] ∧ t.display ≠ none)) ∧
      ((t.reg .C = s.cell s.pc ∧ (t.reg .A = 1 ∨ t.reg .A = 2 ∨ t.reg .A = 3 ∨ t.reg .A = 4) ∧ calls = [] ∧
          (t.display = none → t.ports = s.ports)) ∨
        (s.cell s.pc = 0x0A ∧ (fetchCell s (s.pc + 1) = 0x80 ∨ fetchCell s (s.pc + 1) = 0x81) ∧ t.reg .C = 0 ∧
          (t.reg .A = 0x81 ∨ t.reg .A = 0x82 ∨ t.reg .A = 0x83 ∨ t.reg .A = 0x84 ∨ t.reg .A = 0x85) ∧
          calls = blockCalls (fetchCell s (s.pc + 1)) (t.reg .A) s))) ∧
    t.reg .D = s.reg .D ∧ t.reg .E = s.reg .E ∧ t.reg .F = s.reg .F ∧
    t.mem = s.mem ∧ t.sp = s.sp ∧ t.stack = s.stack ∧ t.display = s.display ∧ t.lastKey = s.lastKey ∧ t.cfg = s.cfg

/-- R109: the ways a step ends the run, and no other: end of memory, HALT, service 0xFF, the error interrupt (by a
delivery or by the program), the quit signal, raised at the sample of the executed state `u` with a display active (its
place is decision D17: assumption 10; a delivery is recognised by the mark: assumption 12). -/
def Obligations.RunEndsInFiveWays : Prop :=
  ∀ s t : State, s.faulted = false → s.run = .running → step s = .next t → t.run = .halted →
    256 ≤ s.pc ∨ s.cell s.pc = 0x00 ∨ t.faulted = true ∨
    (s.cell s.pc = 0x0A ∧ (fetchCell s (s.pc + 1) = 0xFE ∨ fetchCell s (s.pc + 1) = 0xFF)) ∨
    ∃ u, exec (decodeCells (fetchCells s)) (s.advance (instrLen (s.cell s.pc))) = .next u ∧ t = hostSample u ∧
      u.display ≠ none ∧ quitRaised u = true

/-- R107, R199: a step that ends the run without a delivery, and with no display active, writes no register. -/
def Obligations.CleanHaltKeepsRegisters : Prop :=
  ∀ s t : State, s.run = .running → step s = .next t → t.cleanHalt → t.display = none →
    t.regs = s.regs ∧ t.mem = s.mem ∧ t.sp = s.sp ∧ t.stack = s.stack

/-- R34, R57, R54: memory changes only by a STR, only at the cell its address names, to the register's value. -/
def Obligations.OnlyStrWritesMemory : Prop :=
  ∀ (s t : State) (a : Nat), s.mem.wf → step s = .next t → t.cell a ≠ s.cell a →
    s.cell s.pc = 0x05 ∧ addrOf (fetchCell s (s.pc + 2)) = some a ∧
    ∃ r, regOf s.cfg (fetchCell s (s.pc + 1)) = some r ∧ t.cell a = s.reg r

/-- R22: a register changes only as the destination of an instruction that has one, by a delivery (A, B, C), or by an
INT service (A, B, E). -/
def Obligations.RegistersChangeOnlyAsTheRulesSay : Prop :=
  ∀ (s t : State) (r : RegName), step s = .next t → t.reg r ≠ s.reg r →
    (s.cell s.pc ∈ [0x01, 0x02, 0x03, 0x04, 0x06, 0x0C, 0x0F, 0x10, 0x12, 0x13] ∧
      regOf s.cfg (fetchCell s (s.pc + 1)) = some r) ∨
    (t.faulted = true ∧ (r = .A ∨ r = .B ∨ r = .C)) ∨
    (s.cell s.pc = 0x0A ∧ (r = .A ∨ r = .B ∨ r = .E))

/-- R25: after every step that fetched, `pc` is where the instruction transfers to if it is a taken branch, a JMP, a JSR
or a RET that does not fault, and the advanced pc otherwise: after every other instruction, a branch that is not taken,
and every delivery. Which targets are valid is decision D8 (assumption 14), when a transfer faults D6 and D7
(assumption 13). -/
def Obligations.PcAdvancesOrTransfers : Prop :=
  ∀ s t : State, s.pc ≤ 255 → step s = .next t →
    t.pc = (transferOf (decodeCells (fetchCells s)) s).getD (s.pc + instrLen (s.cell s.pc)) ∧
    ((transferOf (decodeCells (fetchCells s)) s).isSome → t.faulted = s.faulted ∧ t.pc ≤ 255 ∧
      s.cell s.pc ∈ [0x08, 0x09, 0x14, 0x11, 0x0D, 0x0E])

/-- R29, R154 (1), (4): only PUSH, JSR, POP and RET move `sp`, by one; the stack slots change only by PUSH and JSR, at
the new `sp`. -/
def Obligations.StackMovesOnlyByItsInstructions : Prop :=
  ∀ s t : State, step s = .next t →
    (t.sp = s.sp ∧ t.stack = s.stack) ∨
    (s.cell s.pc ∈ [0x0B, 0x0D] ∧ t.sp + 1 = s.sp ∧ ∀ k, k ≠ t.sp → t.slot k = s.slot k) ∨
    (s.cell s.pc ∈ [0x0C, 0x0E] ∧ t.sp = s.sp + 1 ∧ t.stack = s.stack)

/-- R35 (decision D18): every step that fetches counts one cycle, faulting or not; the end-of-memory halt counts
none. -/
def Obligations.CyclesCountFetches : Prop :=
  ∀ s t : State, step s = .next t →
    (s.pc ≤ 255 → t.cycles = s.cycles + 1) ∧ (256 ≤ s.pc → t.cycles = s.cycles)

/-- R33, R110, R193: the trace only grows, the fault mark stays, the configuration is fixed. -/
def Obligations.TraceGrowsAndMarkStays : Prop :=
  ∀ s t : State, step s = .next t →
    (∃ es, t.out = s.out ++ es) ∧ (s.faulted = true → t.faulted = true) ∧ t.cfg = s.cfg

/-- R111: with no display active, an instruction other than INT with a service that calls a port is independent of the
ports and leaves no display active. -/
def Obligations.PortsDoNotReachPlainPrograms : Prop :=
  ∀ (s t : State) (ports : Ports), s.display = none →
    (s.cell s.pc = 0x0A → fetchCell s (s.pc + 1) ∈ [0x00, 0x01, 0xFE, 0xFF]) → step s = .next t →
    t.display = none ∧ t.ports = s.ports ∧ step { s with ports := ports } = .next { t with ports := ports }

/-- R38, R36: the remembered key changes only by key-poll, the display configuration only by display-init. -/
def Obligations.ServiceStateChangesOnlyByItsServices : Prop :=
  ∀ s t : State, step s = .next t →
    (t.lastKey ≠ s.lastKey → s.cell s.pc = 0x0A ∧ fetchCell s (s.pc + 1) = 0xF6) ∧
    (t.display ≠ s.display → s.cell s.pc = 0x0A ∧ fetchCell s (s.pc + 1) = 0x70)

/-! ### Memory as data, the state dump -/

/-- R60 (3), and the canonical form: a write is read back, reaches no other cell, keeps the form; memories in the form
that read alike are equal. -/
def Obligations.MemoryReadsBackWhatWasWritten : Prop :=
  (∀ (m : Memory) (a : Nat) (v : Val), m.wf → a ≤ 255 →
    (m.write a v).wf ∧ (m.write a v).read a = v ∧ ∀ b, b ≠ a → (m.write a v).read b = m.read b) ∧
  ∀ m n : Memory, m.wf → n.wf → (∀ a, a ≤ 255 → m.read a = n.read a) → m = n

/-- R197: the dump is there exactly after the halt and shows A..F, every slot, the counter and every cell. -/
def Obligations.DumpShowsTheHaltedState : Prop :=
  ∀ s : State, (s.run = .running → dump s = none) ∧
    (s.run = .halted →
      ∃ d, dump s = some d ∧ d.regs = [s.reg .A, s.reg .B, s.reg .C, s.reg .D, s.reg .E, s.reg .F] ∧
        d.cycles = s.cycles ∧ d.stack.length = 32 ∧ d.mem.length = 256 ∧
        (∀ k, k < 32 → d.stack[k]? = some (s.slot k)) ∧ ∀ k, k < 256 → d.mem[k]? = some (s.cell k))
end

