-- ==== Sys2Proof/Laws/Operands.lean ====
section
/-! SUPPORT. What the operand forms admit, said once each. -/

namespace Sys2Proof.Machine

/-- An integer value is its numerator. -/
theorem eq_num_of_den {v : Val} (h : v.den = 1) : v = (v.num : Val) := (Rat.den_eq_one_iff v).mp h |>.symm

theorem isInt_iff (v : Val) : isInt v = true ↔ v.den = 1 := by simp [isInt]

theorem isInt_eq_false (v : Val) : isInt v = false ↔ v.den ≠ 1 := by simp [isInt]

@[simp] theorem intOf_intCast (n : Int) : intOf (n : Val) = some n := by simp [intOf]

theorem intOf_eq_some {v : Val} {n : Int} : intOf v = some n ↔ v = (n : Val) := by
  constructor
  · intro h
    unfold intOf at h
    split_ifs at h with hd
    rw [← Option.some.inj h]
    exact eq_num_of_den hd
  · rintro rfl
    exact intOf_intCast n

theorem intOf_eq_none {v : Val} : intOf v = none ↔ isInt v = false := by
  unfold intOf
  split_ifs with hd <;> simp [isInt, hd]

theorem natBelow_eq_some {bound : Nat} {v : Val} {a : Nat} : natBelow bound v = some a ↔ v = (a : Val) ∧ a < bound := by
  unfold natBelow
  constructor
  · intro h
    split_ifs at h with hd
    obtain ⟨hd, h0, hb⟩ := hd
    obtain rfl := Option.some.inj h
    refine ⟨?_, by omega⟩
    conv_lhs => rw [eq_num_of_den hd]
    exact_mod_cast (Int.toNat_of_nonneg h0).symm
  · rintro ⟨rfl, h⟩
    simp [h]

theorem isIntIn_iff {lo hi : Int} {v : Val} : isIntIn lo hi v = true ↔ ∃ n : Int, v = (n : Val) ∧ lo ≤ n ∧ n ≤ hi := by
  constructor
  · intro h
    simp only [isIntIn, isInt, Bool.and_eq_true, beq_iff_eq, decide_eq_true_eq] at h
    exact ⟨v.num, eq_num_of_den h.1.1, h.1.2, h.2⟩
  · rintro ⟨n, rfl, h1, h2⟩
    simp [isIntIn, isInt, h1, h2]

/-- Which codes name a register: the table's, by number. -/
theorem regOf_eq_some {cfg : Config} {c : Val} {r : RegName} :
    regOf cfg c = some r ↔ ∃ (k : Nat) (h : k < 6), c = (k : Val) ∧ cfg.regTable[k] = r := by
  simp only [regOf, Option.bind_eq_some_iff, natBelow_eq_some]
  constructor
  · rintro ⟨k, ⟨rfl, hk⟩, h⟩
    exact ⟨k, hk, rfl, by simpa [hk] using h⟩
  · rintro ⟨k, hk, rfl, h⟩
    exact ⟨k, ⟨rfl, hk⟩, by simp [hk, h]⟩

theorem coordOf_eq_some {bound : Int} {v : Val} {n : Int} :
    coordOf bound v = some n ↔ v = (n : Val) ∧ 0 ≤ n ∧ n < bound := by
  simp [coordOf, Option.filter_eq_some_iff, intOf_eq_some]

/-- An admitted coordinate is the numerator. -/
theorem coordOf_num {bound : Int} {v : Val} {n : Int} (h : coordOf bound v = some n) : v.num = n := by
  rw [(coordOf_eq_some.mp h).1]
  exact Rat.num_intCast n

theorem sizeOf_eq_some {v : Val} {n : Int} : sizeOf v = some n ↔ v = (n : Val) ∧ 1 ≤ n := by
  simp [sizeOf, Option.filter_eq_some_iff, intOf_eq_some]

theorem coordOf_eq_none {bound : Int} {v : Val} : coordOf bound v = none ↔ isIntIn 0 (bound - 1) v = false := by
  rw [← not_iff_not, Bool.not_eq_false, isIntIn_iff, ← ne_eq, Option.ne_none_iff_exists']
  simp only [coordOf_eq_some]
  constructor <;> rintro ⟨n, h, h0, h1⟩ <;> exact ⟨n, h, h0, by omega⟩

theorem displayModeOf_eq_some {v : Val} {m : DisplayMode} :
    displayModeOf v = some m ↔ v = (displayModeNumber m : Val) := by
  unfold displayModeOf
  cases m <;> split_ifs <;> simp_all [displayModeNumber]

end Sys2Proof.Machine
end

