-- ==== Sys2Proof/Laws/Decode.lean ====
section
/-! SUPPORT. What the decoder's tables say, once each. -/

namespace Sys2Proof

/-- Every listed opcode cell selects its opcode: no two rows of the table share one. -/
@[simp] theorem opcodeOf_opcodeCell (o : Opcode) : opcodeOf (opcodeCell o) = some o := by cases o <;> decide

/-- Every listed service cell selects its service. -/
@[simp] theorem serviceOf_serviceCell (k : Service) : serviceOf (serviceCell k) = some k := by cases k <;> decide

theorem mem_opcodes (o : Opcode) : o ∈ opcodes := by cases o <;> decide

theorem mem_services (k : Service) : k ∈ services := by cases k <;> decide

theorem opcodeOf_eq_some {c : Val} {o : Opcode} : opcodeOf c = some o ↔ c = opcodeCell o := by
  constructor
  · intro h
    have e := List.find?_some h
    exact (of_decide_eq_true e).symm
  · rintro rfl
    exact opcodeOf_opcodeCell o

theorem opcodeOf_eq_none {c : Val} : opcodeOf c = none ↔ ∀ o, c ≠ opcodeCell o := by
  simp only [opcodeOf, List.find?_eq_none, decide_eq_true_eq]
  exact ⟨fun h o e => h o (mem_opcodes o) e.symm, fun h o _ e => h o e.symm⟩

theorem serviceOf_eq_some {c : Val} {k : Service} : serviceOf c = some k ↔ c = serviceCell k := by
  constructor
  · intro h
    have e := List.find?_some h
    exact (of_decide_eq_true e).symm
  · rintro rfl
    exact serviceOf_serviceCell k

theorem serviceOf_eq_none {c : Val} : serviceOf c = none ↔ ∀ k, c ≠ serviceCell k := by
  simp only [serviceOf, List.find?_eq_none, decide_eq_true_eq]
  exact ⟨fun h k e => h k (mem_services k) e.symm, fun h k _ e => h k e.symm⟩

/-- WellFormed's check of an opcode cell (R78) agrees with the decoder's table (R76). -/
theorem isListedOpcode_iff {c : Val} : isListedOpcode c = true ↔ ∃ o, c = opcodeCell o := by
  constructor
  · intro h
    simp only [isListedOpcode, Bool.and_eq_true, Bool.not_eq_true', decide_eq_false_iff_not,
      Machine.isIntIn_iff] at h
    obtain ⟨⟨n, rfl, h0, h1⟩, h7⟩ := h
    have h7' : n ≠ 7 := fun e => h7 (by rw [e]; norm_num)
    clear h7
    interval_cases n
    · exact ⟨.halt, by norm_num [opcodeCell]⟩
    · exact ⟨.ldw, by norm_num [opcodeCell]⟩
    · exact ⟨.mov, by norm_num [opcodeCell]⟩
    · exact ⟨.add, by norm_num [opcodeCell]⟩
    · exact ⟨.sub, by norm_num [opcodeCell]⟩
    · exact ⟨.str, by norm_num [opcodeCell]⟩
    · exact ⟨.ldr, by norm_num [opcodeCell]⟩
    · exact absurd rfl h7'
    · exact ⟨.bne, by norm_num [opcodeCell]⟩
    · exact ⟨.beq, by norm_num [opcodeCell]⟩
    · exact ⟨.int, by norm_num [opcodeCell]⟩
    · exact ⟨.push, by norm_num [opcodeCell]⟩
    · exact ⟨.pop, by norm_num [opcodeCell]⟩
    · exact ⟨.jsr, by norm_num [opcodeCell]⟩
    · exact ⟨.ret, by norm_num [opcodeCell]⟩
    · exact ⟨.xor, by norm_num [opcodeCell]⟩
    · exact ⟨.and, by norm_num [opcodeCell]⟩
    · exact ⟨.jmp, by norm_num [opcodeCell]⟩
    · exact ⟨.mul, by norm_num [opcodeCell]⟩
    · exact ⟨.div, by norm_num [opcodeCell]⟩
    · exact ⟨.blt, by norm_num [opcodeCell]⟩
  · rintro ⟨o, rfl⟩
    cases o <;> decide

/-- WellFormed's check of a service cell agrees with the decoder's table (R161, R173). -/
theorem isListedService_iff {c : Val} : isListedService c = true ↔ ∃ k, c = serviceCell k := by
  constructor
  · intro h
    simp only [isListedService, List.any_cons, List.any_nil, Bool.or_false, Bool.or_eq_true, decide_eq_true_eq] at h
    rcases h with rfl | rfl | rfl | rfl | rfl | rfl | rfl | rfl | rfl | rfl
    · exact ⟨.printChar, rfl⟩
    · exact ⟨.printInt, rfl⟩
    · exact ⟨.displayInit, rfl⟩
    · exact ⟨.setPixel, rfl⟩
    · exact ⟨.drawChar, rfl⟩
    · exact ⟨.blockRead, rfl⟩
    · exact ⟨.blockWrite, rfl⟩
    · exact ⟨.keyPoll, rfl⟩
    · exact ⟨.error, rfl⟩
    · exact ⟨.halt, rfl⟩
  · rintro ⟨k, rfl⟩
    cases k <;> decide

/-- Only BNE, BEQ and BLT are four cells long (R71). -/
theorem instrLen_opcodeCell (o : Opcode) :
    instrLen (opcodeCell o) = if o = .bne ∨ o = .beq ∨ o = .blt then 4 else 3 := by cases o <;> decide

theorem instrLen_le (c : Val) : 3 ≤ instrLen c ∧ instrLen c ≤ 4 := by
  unfold instrLen
  split_ifs <;> simp

/-- An unlisted opcode cell is three cells long (decision D5). -/
theorem instrLen_unlisted {c : Val} (h : opcodeOf c = none) : instrLen c = 3 := by
  rw [opcodeOf_eq_none] at h
  have h8 : c ≠ 0x08 := h .bne
  have h9 : c ≠ 0x09 := h .beq
  have h14 : c ≠ 0x14 := h .blt
  simp [instrLen, h8, h9, h14]

@[simp] theorem serviceRow_serviceCell (k : Service) : serviceRow (serviceCell k) = rowOfService k := by
  simp [serviceRow]

theorem serviceRow_of_some {c : Val} {k : Service} (h : serviceOf c = some k) : serviceRow c = rowOfService k := by
  simp [serviceRow, h]

theorem serviceRow_unlisted {c : Val} (h : serviceOf c = none) : serviceRow c = .intUnknown c := by
  simp [serviceRow, h]

/-- The opcode of a service's row is INT's. -/
theorem serviceRow_opcode (code : Val) : (serviceRow code).opcode = opcodeCell .int := by
  unfold serviceRow
  split
  · rename_i k _
    cases k <;> rfl
  · rfl

/-- A service's row is what the decoder answers for it. -/
theorem serviceRow_decodedRow (code : Val) : (serviceRow code).decodedRow = serviceRow code := by
  unfold serviceRow
  split
  · rename_i k _
    cases k <;> rfl
  · rfl

/-- A service's row stands for words of its own row. -/
theorem serviceRow_ownRow (code : Val) : (serviceRow code).ownRow = true := by
  cases h : serviceOf code with
  | some k =>
    rw [serviceRow_of_some h]
    cases k <;> rfl
  | none =>
    have hn : ¬ isListedService code = true := fun e => by
      obtain ⟨k, rfl⟩ := isListedService_iff.mp e
      simp at h
    simp [serviceRow_unlisted h, Instr.ownRow, hn]

/-- A service's row encodes to its service code. -/
theorem serviceRow_operands (code : Val) : (serviceRow code).operands = [code, 0] := by
  cases h : serviceOf code with
  | some k =>
    rw [serviceRow_of_some h, serviceOf_eq_some.mp h]
    cases k <;> rfl
  | none => rw [serviceRow_unlisted h]; rfl

/-- The decoded instruction has the opcode cell it was fetched with (R77). -/
@[simp] theorem decodeCells_opcode (c : Cells) : (decodeCells c).opcode = c.c0 := by
  unfold decodeCells
  split <;> rename_i h <;> first | exact (opcodeOf_eq_some.mp h).symm | skip
  · rw [serviceRow_opcode, opcodeOf_eq_some.mp h]
  · rfl

/-- The decoder answers a row the decoder answers: never the row INT itself. -/
@[simp] theorem decodeCells_decodedRow (c : Cells) : (decodeCells c).decodedRow = decodeCells c := by
  unfold decodeCells
  split <;> first | exact serviceRow_decodedRow _ | rfl

/-- The decoded instruction stands for words of its own row. -/
theorem decodeCells_ownRow (c : Cells) : (decodeCells c).ownRow = true := by
  unfold decodeCells
  split <;> first | exact serviceRow_ownRow _ | rfl | skip
  rename_i h
  have hn : ¬ isListedOpcode c.c0 = true := fun e => by
    obtain ⟨o, ho⟩ := isListedOpcode_iff.mp e
    exact opcodeOf_eq_none.mp h o ho
  simp [Instr.ownRow, hn]

/-- A word that decodes to a service's row is the INT word of that service. -/
theorem cells_of_service {c : Cells} {k : Service} (h : decodeCells c = rowOfService k) :
    c.c0 = opcodeCell .int ∧ c.c1 = serviceCell k := by
  have h0 : c.c0 = opcodeCell .int := by
    rw [← decodeCells_opcode c, h]
    cases k <;> rfl
  refine ⟨h0, ?_⟩
  have hrow : decodeCells c = serviceRow c.c1 := by simp [decodeCells, h0]
  have hops := serviceRow_operands c.c1
  rw [← hrow, h] at hops
  cases k <;> simpa [rowOfService, Instr.operands] using hops.symm

/-- Reading a three-cell instruction off a stream. -/
theorem decode_three {c0 : Val} (h : instrLen c0 = 3) (c1 c2 : Val) (rest : List Val) :
    decode (c0 :: c1 :: c2 :: rest) = .ok (decodeCells ⟨c0, c1, c2, 0⟩, rest) := by
  simp [decode, h]

/-- Reading a four-cell instruction off a stream. -/
theorem decode_four {c0 : Val} (h : instrLen c0 = 4) (c1 c2 c3 : Val) (rest : List Val) :
    decode (c0 :: c1 :: c2 :: c3 :: rest) = .ok (decodeCells ⟨c0, c1, c2, c3⟩, rest) := by
  simp [decode, h]

/-- An INT word decodes to the row of its service. -/
theorem decodeCells_int {c : Cells} (h : c.c0 = opcodeCell .int) : decodeCells c = serviceRow c.c1 := by
  simp [decodeCells, h]

end Sys2Proof
end

