-- ==== Sys2Proof/Laws/State.lean ====
section
/-! SUPPORT. One lemma per field per update of State, all true by rfl, so that no proof unfolds a record update. -/

namespace Sys2Proof.Machine

variable (s : State)

/-! ### setReg -/

@[simp] theorem setReg_cfg (r : RegName) (v : Val) : (s.setReg r v).cfg = s.cfg := rfl
@[simp] theorem setReg_regs (r : RegName) (v : Val) : (s.setReg r v).regs = s.regs.set r v := rfl
@[simp] theorem setReg_pc (r : RegName) (v : Val) : (s.setReg r v).pc = s.pc := rfl
@[simp] theorem setReg_sp (r : RegName) (v : Val) : (s.setReg r v).sp = s.sp := rfl
@[simp] theorem setReg_stack (r : RegName) (v : Val) : (s.setReg r v).stack = s.stack := rfl
@[simp] theorem setReg_run (r : RegName) (v : Val) : (s.setReg r v).run = s.run := rfl
@[simp] theorem setReg_display (r : RegName) (v : Val) : (s.setReg r v).display = s.display := rfl
@[simp] theorem setReg_lastKey (r : RegName) (v : Val) : (s.setReg r v).lastKey = s.lastKey := rfl
@[simp] theorem setReg_mem (r : RegName) (v : Val) : (s.setReg r v).mem = s.mem := rfl
@[simp] theorem setReg_cycles (r : RegName) (v : Val) : (s.setReg r v).cycles = s.cycles := rfl
@[simp] theorem setReg_out (r : RegName) (v : Val) : (s.setReg r v).out = s.out := rfl
@[simp] theorem setReg_faulted (r : RegName) (v : Val) : (s.setReg r v).faulted = s.faulted := rfl
@[simp] theorem setReg_ports (r : RegName) (v : Val) : (s.setReg r v).ports = s.ports := rfl

/-! ### setCell -/

@[simp] theorem setCell_cfg (a : Nat) (v : Val) : (s.setCell a v).cfg = s.cfg := rfl
@[simp] theorem setCell_regs (a : Nat) (v : Val) : (s.setCell a v).regs = s.regs := rfl
@[simp] theorem setCell_pc (a : Nat) (v : Val) : (s.setCell a v).pc = s.pc := rfl
@[simp] theorem setCell_sp (a : Nat) (v : Val) : (s.setCell a v).sp = s.sp := rfl
@[simp] theorem setCell_stack (a : Nat) (v : Val) : (s.setCell a v).stack = s.stack := rfl
@[simp] theorem setCell_run (a : Nat) (v : Val) : (s.setCell a v).run = s.run := rfl
@[simp] theorem setCell_display (a : Nat) (v : Val) : (s.setCell a v).display = s.display := rfl
@[simp] theorem setCell_lastKey (a : Nat) (v : Val) : (s.setCell a v).lastKey = s.lastKey := rfl
@[simp] theorem setCell_mem (a : Nat) (v : Val) : (s.setCell a v).mem = s.mem.write a v := rfl
@[simp] theorem setCell_cycles (a : Nat) (v : Val) : (s.setCell a v).cycles = s.cycles := rfl
@[simp] theorem setCell_out (a : Nat) (v : Val) : (s.setCell a v).out = s.out := rfl
@[simp] theorem setCell_faulted (a : Nat) (v : Val) : (s.setCell a v).faulted = s.faulted := rfl
@[simp] theorem setCell_ports (a : Nat) (v : Val) : (s.setCell a v).ports = s.ports := rfl

/-! ### push -/

@[simp] theorem push_cfg (v : Val) : (s.push v).cfg = s.cfg := rfl
@[simp] theorem push_regs (v : Val) : (s.push v).regs = s.regs := rfl
@[simp] theorem push_pc (v : Val) : (s.push v).pc = s.pc := rfl
@[simp] theorem push_sp (v : Val) : (s.push v).sp = s.sp - 1 := rfl
@[simp] theorem push_stack (v : Val) : (s.push v).stack = s.stack.setIfInBounds (s.sp - 1) v := rfl
@[simp] theorem push_run (v : Val) : (s.push v).run = s.run := rfl
@[simp] theorem push_display (v : Val) : (s.push v).display = s.display := rfl
@[simp] theorem push_lastKey (v : Val) : (s.push v).lastKey = s.lastKey := rfl
@[simp] theorem push_mem (v : Val) : (s.push v).mem = s.mem := rfl
@[simp] theorem push_cycles (v : Val) : (s.push v).cycles = s.cycles := rfl
@[simp] theorem push_out (v : Val) : (s.push v).out = s.out := rfl
@[simp] theorem push_faulted (v : Val) : (s.push v).faulted = s.faulted := rfl
@[simp] theorem push_ports (v : Val) : (s.push v).ports = s.ports := rfl

/-! ### pop -/

@[simp] theorem pop_cfg : (s.pop).cfg = s.cfg := rfl
@[simp] theorem pop_regs : (s.pop).regs = s.regs := rfl
@[simp] theorem pop_pc : (s.pop).pc = s.pc := rfl
@[simp] theorem pop_sp : (s.pop).sp = s.sp + 1 := rfl
@[simp] theorem pop_stack : (s.pop).stack = s.stack := rfl
@[simp] theorem pop_run : (s.pop).run = s.run := rfl
@[simp] theorem pop_display : (s.pop).display = s.display := rfl
@[simp] theorem pop_lastKey : (s.pop).lastKey = s.lastKey := rfl
@[simp] theorem pop_mem : (s.pop).mem = s.mem := rfl
@[simp] theorem pop_cycles : (s.pop).cycles = s.cycles := rfl
@[simp] theorem pop_out : (s.pop).out = s.out := rfl
@[simp] theorem pop_faulted : (s.pop).faulted = s.faulted := rfl
@[simp] theorem pop_ports : (s.pop).ports = s.ports := rfl

/-! ### emit -/

@[simp] theorem emit_cfg (e : Event) : (s.emit e).cfg = s.cfg := rfl
@[simp] theorem emit_regs (e : Event) : (s.emit e).regs = s.regs := rfl
@[simp] theorem emit_pc (e : Event) : (s.emit e).pc = s.pc := rfl
@[simp] theorem emit_sp (e : Event) : (s.emit e).sp = s.sp := rfl
@[simp] theorem emit_stack (e : Event) : (s.emit e).stack = s.stack := rfl
@[simp] theorem emit_run (e : Event) : (s.emit e).run = s.run := rfl
@[simp] theorem emit_display (e : Event) : (s.emit e).display = s.display := rfl
@[simp] theorem emit_lastKey (e : Event) : (s.emit e).lastKey = s.lastKey := rfl
@[simp] theorem emit_mem (e : Event) : (s.emit e).mem = s.mem := rfl
@[simp] theorem emit_cycles (e : Event) : (s.emit e).cycles = s.cycles := rfl
@[simp] theorem emit_out (e : Event) : (s.emit e).out = s.out ++ [e] := rfl
@[simp] theorem emit_faulted (e : Event) : (s.emit e).faulted = s.faulted := rfl
@[simp] theorem emit_ports (e : Event) : (s.emit e).ports = s.ports := rfl

/-! ### halt -/

@[simp] theorem halt_cfg : (s.halt).cfg = s.cfg := rfl
@[simp] theorem halt_regs : (s.halt).regs = s.regs := rfl
@[simp] theorem halt_pc : (s.halt).pc = s.pc := rfl
@[simp] theorem halt_sp : (s.halt).sp = s.sp := rfl
@[simp] theorem halt_stack : (s.halt).stack = s.stack := rfl
@[simp] theorem halt_run : (s.halt).run = .halted := rfl
@[simp] theorem halt_display : (s.halt).display = s.display := rfl
@[simp] theorem halt_lastKey : (s.halt).lastKey = s.lastKey := rfl
@[simp] theorem halt_mem : (s.halt).mem = s.mem := rfl
@[simp] theorem halt_cycles : (s.halt).cycles = s.cycles := rfl
@[simp] theorem halt_out : (s.halt).out = s.out := rfl
@[simp] theorem halt_faulted : (s.halt).faulted = s.faulted := rfl
@[simp] theorem halt_ports : (s.halt).ports = s.ports := rfl

/-! ### jump -/

@[simp] theorem jump_cfg (a : Nat) : (s.jump a).cfg = s.cfg := rfl
@[simp] theorem jump_regs (a : Nat) : (s.jump a).regs = s.regs := rfl
@[simp] theorem jump_pc (a : Nat) : (s.jump a).pc = a := rfl
@[simp] theorem jump_sp (a : Nat) : (s.jump a).sp = s.sp := rfl
@[simp] theorem jump_stack (a : Nat) : (s.jump a).stack = s.stack := rfl
@[simp] theorem jump_run (a : Nat) : (s.jump a).run = s.run := rfl
@[simp] theorem jump_display (a : Nat) : (s.jump a).display = s.display := rfl
@[simp] theorem jump_lastKey (a : Nat) : (s.jump a).lastKey = s.lastKey := rfl
@[simp] theorem jump_mem (a : Nat) : (s.jump a).mem = s.mem := rfl
@[simp] theorem jump_cycles (a : Nat) : (s.jump a).cycles = s.cycles := rfl
@[simp] theorem jump_out (a : Nat) : (s.jump a).out = s.out := rfl
@[simp] theorem jump_faulted (a : Nat) : (s.jump a).faulted = s.faulted := rfl
@[simp] theorem jump_ports (a : Nat) : (s.jump a).ports = s.ports := rfl

/-! ### advance -/

@[simp] theorem advance_cfg (n : Nat) : (s.advance n).cfg = s.cfg := rfl
@[simp] theorem advance_regs (n : Nat) : (s.advance n).regs = s.regs := rfl
@[simp] theorem advance_pc (n : Nat) : (s.advance n).pc = s.pc + n := rfl
@[simp] theorem advance_sp (n : Nat) : (s.advance n).sp = s.sp := rfl
@[simp] theorem advance_stack (n : Nat) : (s.advance n).stack = s.stack := rfl
@[simp] theorem advance_run (n : Nat) : (s.advance n).run = s.run := rfl
@[simp] theorem advance_display (n : Nat) : (s.advance n).display = s.display := rfl
@[simp] theorem advance_lastKey (n : Nat) : (s.advance n).lastKey = s.lastKey := rfl
@[simp] theorem advance_mem (n : Nat) : (s.advance n).mem = s.mem := rfl
@[simp] theorem advance_cycles (n : Nat) : (s.advance n).cycles = s.cycles + 1 := rfl
@[simp] theorem advance_out (n : Nat) : (s.advance n).out = s.out := rfl
@[simp] theorem advance_faulted (n : Nat) : (s.advance n).faulted = s.faulted := rfl
@[simp] theorem advance_ports (n : Nat) : (s.advance n).ports = s.ports := rfl

/-! ### afterDelivery -/

@[simp] theorem afterDelivery_cfg (code c : Val) : (afterDelivery code c s).cfg = s.cfg := rfl
@[simp] theorem afterDelivery_regs (code c : Val) : (afterDelivery code c s).regs = { s.regs with a := code, b := (s.pc : Val), c := c } := rfl
@[simp] theorem afterDelivery_pc (code c : Val) : (afterDelivery code c s).pc = s.pc := rfl
@[simp] theorem afterDelivery_sp (code c : Val) : (afterDelivery code c s).sp = s.sp := rfl
@[simp] theorem afterDelivery_stack (code c : Val) : (afterDelivery code c s).stack = s.stack := rfl
@[simp] theorem afterDelivery_run (code c : Val) : (afterDelivery code c s).run = .halted := rfl
@[simp] theorem afterDelivery_display (code c : Val) : (afterDelivery code c s).display = s.display := rfl
@[simp] theorem afterDelivery_lastKey (code c : Val) : (afterDelivery code c s).lastKey = s.lastKey := rfl
@[simp] theorem afterDelivery_mem (code c : Val) : (afterDelivery code c s).mem = s.mem := rfl
@[simp] theorem afterDelivery_cycles (code c : Val) : (afterDelivery code c s).cycles = s.cycles := rfl
@[simp] theorem afterDelivery_out (code c : Val) : (afterDelivery code c s).out = s.out ++ [.errorReport code (s.pc : Val) c] := rfl
@[simp] theorem afterDelivery_faulted (code c : Val) : (afterDelivery code c s).faulted = true := rfl
@[simp] theorem afterDelivery_ports (code c : Val) : (afterDelivery code c s).ports = s.ports := rfl

/-! ### errorInterrupt -/

@[simp] theorem errorInterrupt_cfg : (errorInterrupt s).cfg = s.cfg := rfl
@[simp] theorem errorInterrupt_regs : (errorInterrupt s).regs = s.regs := rfl
@[simp] theorem errorInterrupt_pc : (errorInterrupt s).pc = s.pc := rfl
@[simp] theorem errorInterrupt_sp : (errorInterrupt s).sp = s.sp := rfl
@[simp] theorem errorInterrupt_stack : (errorInterrupt s).stack = s.stack := rfl
@[simp] theorem errorInterrupt_run : (errorInterrupt s).run = .halted := rfl
@[simp] theorem errorInterrupt_display : (errorInterrupt s).display = s.display := rfl
@[simp] theorem errorInterrupt_lastKey : (errorInterrupt s).lastKey = s.lastKey := rfl
@[simp] theorem errorInterrupt_mem : (errorInterrupt s).mem = s.mem := rfl
@[simp] theorem errorInterrupt_cycles : (errorInterrupt s).cycles = s.cycles := rfl
@[simp] theorem errorInterrupt_out : (errorInterrupt s).out = s.out ++ [.errorReport s.regs.a s.regs.b s.regs.c] := rfl
@[simp] theorem errorInterrupt_faulted : (errorInterrupt s).faulted = s.faulted := rfl
@[simp] theorem errorInterrupt_ports : (errorInterrupt s).ports = s.ports := rfl

/-! ### initDisplay -/

@[simp] theorem initDisplay_cfg (m : DisplayMode) (w h : Int) : (initDisplay m w h s).cfg = s.cfg := rfl
@[simp] theorem initDisplay_regs (m : DisplayMode) (w h : Int) : (initDisplay m w h s).regs = s.regs := rfl
@[simp] theorem initDisplay_pc (m : DisplayMode) (w h : Int) : (initDisplay m w h s).pc = s.pc := rfl
@[simp] theorem initDisplay_sp (m : DisplayMode) (w h : Int) : (initDisplay m w h s).sp = s.sp := rfl
@[simp] theorem initDisplay_stack (m : DisplayMode) (w h : Int) : (initDisplay m w h s).stack = s.stack := rfl
@[simp] theorem initDisplay_run (m : DisplayMode) (w h : Int) : (initDisplay m w h s).run = s.run := rfl
@[simp] theorem initDisplay_display (m : DisplayMode) (w h : Int) : (initDisplay m w h s).display = some ⟨m, w, h⟩ := rfl
@[simp] theorem initDisplay_lastKey (m : DisplayMode) (w h : Int) : (initDisplay m w h s).lastKey = s.lastKey := rfl
@[simp] theorem initDisplay_mem (m : DisplayMode) (w h : Int) : (initDisplay m w h s).mem = s.mem := rfl
@[simp] theorem initDisplay_cycles (m : DisplayMode) (w h : Int) : (initDisplay m w h s).cycles = s.cycles := rfl
@[simp] theorem initDisplay_out (m : DisplayMode) (w h : Int) : (initDisplay m w h s).out = s.out ++ [.displayInit (displayModeNumber m) w h] := rfl
@[simp] theorem initDisplay_faulted (m : DisplayMode) (w h : Int) : (initDisplay m w h s).faulted = s.faulted := rfl
@[simp] theorem initDisplay_ports (m : DisplayMode) (w h : Int) : (initDisplay m w h s).ports = s.ports := rfl

/-! ### pollKeys -/

@[simp] theorem pollKeys_cfg : (pollKeys s).2.cfg = s.cfg := rfl
@[simp] theorem pollKeys_regs : (pollKeys s).2.regs = s.regs := rfl
@[simp] theorem pollKeys_pc : (pollKeys s).2.pc = s.pc := rfl
@[simp] theorem pollKeys_sp : (pollKeys s).2.sp = s.sp := rfl
@[simp] theorem pollKeys_stack : (pollKeys s).2.stack = s.stack := rfl
@[simp] theorem pollKeys_run : (pollKeys s).2.run = s.run := rfl
@[simp] theorem pollKeys_display : (pollKeys s).2.display = s.display := rfl
@[simp] theorem pollKeys_lastKey : (pollKeys s).2.lastKey = s.lastKey := rfl
@[simp] theorem pollKeys_mem : (pollKeys s).2.mem = s.mem := rfl
@[simp] theorem pollKeys_cycles : (pollKeys s).2.cycles = s.cycles := rfl
@[simp] theorem pollKeys_out : (pollKeys s).2.out = s.out ++ [.pressedKeycodes] := rfl
@[simp] theorem pollKeys_faulted : (pollKeys s).2.faulted = s.faulted := rfl
@[simp] theorem pollKeys_ports : (pollKeys s).2.ports = s.ports.nextKeys.2 := rfl

/-! ### askExists -/

@[simp] theorem askExists_cfg (d : Int) : (askExists d s).2.cfg = s.cfg := rfl
@[simp] theorem askExists_regs (d : Int) : (askExists d s).2.regs = s.regs := rfl
@[simp] theorem askExists_pc (d : Int) : (askExists d s).2.pc = s.pc := rfl
@[simp] theorem askExists_sp (d : Int) : (askExists d s).2.sp = s.sp := rfl
@[simp] theorem askExists_stack (d : Int) : (askExists d s).2.stack = s.stack := rfl
@[simp] theorem askExists_run (d : Int) : (askExists d s).2.run = s.run := rfl
@[simp] theorem askExists_display (d : Int) : (askExists d s).2.display = s.display := rfl
@[simp] theorem askExists_lastKey (d : Int) : (askExists d s).2.lastKey = s.lastKey := rfl
@[simp] theorem askExists_mem (d : Int) : (askExists d s).2.mem = s.mem := rfl
@[simp] theorem askExists_cycles (d : Int) : (askExists d s).2.cycles = s.cycles := rfl
@[simp] theorem askExists_out (d : Int) : (askExists d s).2.out = s.out ++ [.blockExists d] := rfl
@[simp] theorem askExists_faulted (d : Int) : (askExists d s).2.faulted = s.faulted := rfl
@[simp] theorem askExists_ports (d : Int) : (askExists d s).2.ports = s.ports.nextExists.2 := rfl

/-! ### askRead -/

@[simp] theorem askRead_cfg (d e o : Int) : (askRead d e o s).2.cfg = s.cfg := rfl
@[simp] theorem askRead_regs (d e o : Int) : (askRead d e o s).2.regs = s.regs := rfl
@[simp] theorem askRead_pc (d e o : Int) : (askRead d e o s).2.pc = s.pc := rfl
@[simp] theorem askRead_sp (d e o : Int) : (askRead d e o s).2.sp = s.sp := rfl
@[simp] theorem askRead_stack (d e o : Int) : (askRead d e o s).2.stack = s.stack := rfl
@[simp] theorem askRead_run (d e o : Int) : (askRead d e o s).2.run = s.run := rfl
@[simp] theorem askRead_display (d e o : Int) : (askRead d e o s).2.display = s.display := rfl
@[simp] theorem askRead_lastKey (d e o : Int) : (askRead d e o s).2.lastKey = s.lastKey := rfl
@[simp] theorem askRead_mem (d e o : Int) : (askRead d e o s).2.mem = s.mem := rfl
@[simp] theorem askRead_cycles (d e o : Int) : (askRead d e o s).2.cycles = s.cycles := rfl
@[simp] theorem askRead_out (d e o : Int) : (askRead d e o s).2.out = s.out ++ [.blockReadByte d e o] := rfl
@[simp] theorem askRead_faulted (d e o : Int) : (askRead d e o s).2.faulted = s.faulted := rfl
@[simp] theorem askRead_ports (d e o : Int) : (askRead d e o s).2.ports = s.ports.nextRead.2 := rfl

/-! ### askWrite -/

@[simp] theorem askWrite_cfg (d e o : Int) (v : Val) : (askWrite d e o v s).2.cfg = s.cfg := rfl
@[simp] theorem askWrite_regs (d e o : Int) (v : Val) : (askWrite d e o v s).2.regs = s.regs := rfl
@[simp] theorem askWrite_pc (d e o : Int) (v : Val) : (askWrite d e o v s).2.pc = s.pc := rfl
@[simp] theorem askWrite_sp (d e o : Int) (v : Val) : (askWrite d e o v s).2.sp = s.sp := rfl
@[simp] theorem askWrite_stack (d e o : Int) (v : Val) : (askWrite d e o v s).2.stack = s.stack := rfl
@[simp] theorem askWrite_run (d e o : Int) (v : Val) : (askWrite d e o v s).2.run = s.run := rfl
@[simp] theorem askWrite_display (d e o : Int) (v : Val) : (askWrite d e o v s).2.display = s.display := rfl
@[simp] theorem askWrite_lastKey (d e o : Int) (v : Val) : (askWrite d e o v s).2.lastKey = s.lastKey := rfl
@[simp] theorem askWrite_mem (d e o : Int) (v : Val) : (askWrite d e o v s).2.mem = s.mem := rfl
@[simp] theorem askWrite_cycles (d e o : Int) (v : Val) : (askWrite d e o v s).2.cycles = s.cycles := rfl
@[simp] theorem askWrite_out (d e o : Int) (v : Val) : (askWrite d e o v s).2.out = s.out ++ [.blockWriteByte d e o v] := rfl
@[simp] theorem askWrite_faulted (d e o : Int) (v : Val) : (askWrite d e o v s).2.faulted = s.faulted := rfl
@[simp] theorem askWrite_ports (d e o : Int) (v : Val) : (askWrite d e o v s).2.ports = s.ports.nextWrite.2 := rfl

/-! ### The answers of the ports, the deliveries -/

@[simp] theorem pollKeys_answer : (pollKeys s).1 = s.ports.nextKeys.1 := rfl
@[simp] theorem askExists_answer (d : Int) : (askExists d s).1 = s.ports.nextExists.1 := rfl
@[simp] theorem askRead_answer (d e o : Int) : (askRead d e o s).1 = s.ports.nextRead.1 := rfl
@[simp] theorem askWrite_answer (d e o : Int) (v : Val) : (askWrite d e o v s).1 = s.ports.nextWrite.1 := rfl

/-- Taking a fault, said once. -/
@[simp] theorem deliver_eq (code c : Val) : deliver code c s = afterDelivery code c s := rfl

@[simp] theorem raiseFault_eq (k : Category) (op : Val) : raiseFault k op s = afterDelivery (categoryCode k) op s := rfl

@[simp] theorem raiseBlock_eq (e : BlockCode) : raiseBlock e s = afterDelivery (blockCodeOf e) 0 s := rfl

/-! ### Registers through their accessors -/

theorem Regs.get_set (g : Regs) (r q : RegName) (v : Val) : (g.set r v).get q = if q = r then v else g.get q := by
  cases r <;> cases q <;> rfl

@[simp] theorem setReg_reg_same (r : RegName) (v : Val) : (s.setReg r v).reg r = v := by cases r <;> rfl

theorem setReg_reg_other {r q : RegName} (v : Val) (h : q ≠ r) : (s.setReg r v).reg q = s.reg q := by
  simp [State.reg, Regs.get_set, h]

/-- What a register write does, said once. -/
theorem setReg_writesReg (r : RegName) (v : Val) : writesReg r v s (s.setReg r v) :=
  ⟨setReg_reg_same s r v, fun _ h => setReg_reg_other s v h, rfl⟩

/-! ### Stack slots through their accessor -/

/-- What a push does to the slots, said once. -/
theorem push_slot (v : Val) (k : Nat) (h : s.sp ≤ 32) :
    (s.push v).slot k = if k = s.sp - 1 then v else s.slot k := by
  have hlt : s.sp - 1 < 32 := by omega
  by_cases hk : k = s.sp - 1
  · subst hk; simp [State.slot, hlt]
  · simp [State.slot, hk, Ne.symm hk]

/-! ### The host's sample -/

/-- Everything `hostSample` can do: with no display nothing, with one it appends at most one `present`, may halt, and
moves the port scripts. -/
theorem hostSample_cases :
    (s.display = none ∧ hostSample s = s) ∨
    (s.display ≠ none ∧ ∃ (shown quit : Bool) (ports : Ports),
      hostSample s =
        { s with
          out := s.out ++ (if shown then [.present] else [])
          run := if quit then .halted else s.run
          ports := ports }) := by
  unfold hostSample
  cases hd : s.display with
  | none => exact .inl ⟨rfl, rfl⟩
  | some d =>
    refine .inr ⟨by simp, s.ports.nextPresent.1, s.ports.nextPresent.2.nextQuit.1, s.ports.nextPresent.2.nextQuit.2, ?_⟩
    cases h : s.ports.nextPresent.1 <;> simp [h]

@[simp] theorem hostSample_cfg : (hostSample s).cfg = s.cfg := by
  rcases hostSample_cases s with ⟨-, h⟩ | ⟨-, _, _, _, h⟩ <;> rw [h]

/-- The sample halts the engine exactly where quit is raised with a display active. -/
theorem hostSample_halted :
    (hostSample s).run = .halted ↔ s.run = .halted ∨ (s.display ≠ none ∧ quitRaised s = true) := by
  unfold hostSample quitRaised
  cases s.display with
  | none => simp
  | some d => cases h : s.ports.nextPresent.2.nextQuit.1 <;> simp [h]

@[simp] theorem hostSample_regs : (hostSample s).regs = s.regs := by
  rcases hostSample_cases s with ⟨-, h⟩ | ⟨-, _, _, _, h⟩ <;> rw [h]

@[simp] theorem hostSample_pc : (hostSample s).pc = s.pc := by
  rcases hostSample_cases s with ⟨-, h⟩ | ⟨-, _, _, _, h⟩ <;> rw [h]

@[simp] theorem hostSample_sp : (hostSample s).sp = s.sp := by
  rcases hostSample_cases s with ⟨-, h⟩ | ⟨-, _, _, _, h⟩ <;> rw [h]

@[simp] theorem hostSample_stack : (hostSample s).stack = s.stack := by
  rcases hostSample_cases s with ⟨-, h⟩ | ⟨-, _, _, _, h⟩ <;> rw [h]

@[simp] theorem hostSample_display : (hostSample s).display = s.display := by
  rcases hostSample_cases s with ⟨-, h⟩ | ⟨-, _, _, _, h⟩ <;> rw [h]

@[simp] theorem hostSample_lastKey : (hostSample s).lastKey = s.lastKey := by
  rcases hostSample_cases s with ⟨-, h⟩ | ⟨-, _, _, _, h⟩ <;> rw [h]

@[simp] theorem hostSample_mem : (hostSample s).mem = s.mem := by
  rcases hostSample_cases s with ⟨-, h⟩ | ⟨-, _, _, _, h⟩ <;> rw [h]

@[simp] theorem hostSample_cycles : (hostSample s).cycles = s.cycles := by
  rcases hostSample_cases s with ⟨-, h⟩ | ⟨-, _, _, _, h⟩ <;> rw [h]

@[simp] theorem hostSample_faulted : (hostSample s).faulted = s.faulted := by
  rcases hostSample_cases s with ⟨-, h⟩ | ⟨-, _, _, _, h⟩ <;> rw [h]

end Sys2Proof.Machine
end

