-- ==== Sys2Proof/Laws/Effect.lean ====
section
/-! SUPPORT. Everything an instruction can do, said once (`exec_effect`): the rules of the whole machine are read off
it, and no proof about all instructions unfolds a meaning again. -/

namespace Sys2Proof.Machine

/-- The destination operand cell of an instruction that writes a register it names and does nothing else. -/
def destOf : Instr → Option Val
  | .ldw c _ | .mov c _ | .add c _ | .sub c _ | .ldr c _ | .xor c _ | .and c _ | .mul c _ | .div c _ => some c
  | .halt | .str _ _ | .bne _ _ _ | .beq _ _ _ | .int _ | .push _ | .pop _ | .jsr _ | .ret | .jmp _ | .blt _ _ _
  | .intPrintChar | .intPrintInt | .intDisplayInit | .intSetPixel | .intDrawChar | .intKeyPoll | .intBlockRead
  | .intBlockWrite | .intError | .intHalt | .intUnknown _ | .illegal _ => none

/-- The target cell of a jump or a branch, whose only effect is on `pc`. -/
def jumpOf : Instr → Option Val
  | .bne _ _ t | .beq _ _ t | .blt _ _ t | .jmp t => some t
  | .halt | .ldw _ _ | .mov _ _ | .add _ _ | .sub _ _ | .str _ _ | .ldr _ _ | .int _ | .push _ | .pop _ | .jsr _
  | .ret | .xor _ _ | .and _ _ | .mul _ _ | .div _ _ | .intPrintChar | .intPrintInt | .intDisplayInit | .intSetPixel
  | .intDrawChar | .intKeyPoll | .intBlockRead | .intBlockWrite | .intError | .intHalt | .intUnknown _ | .illegal _ =>
    none

/-- What executing `i` in `s` can leave. An INT is named by the row of its service (`decodedRow`). -/
inductive Effect (s : State) (i : Instr) : State → Prop
  | dest (c v : Val) (r : RegName) : destOf i = some c → regOf s.cfg c = some r → Effect s i (s.setReg r v)
  | store (c addr : Val) (r : RegName) (a : Nat) :
      i = .str c addr → regOf s.cfg c = some r → addrOf addr = some a → Effect s i (s.setCell a (s.reg r))
  | stay (t : Val) : jumpOf i = some t → Effect s i s
  | jump (t : Val) (a : Nat) : jumpOf i = some t → targetOf t = some a → Effect s i (s.jump a)
  | push (c : Val) (r : RegName) :
      i = .push c → regOf s.cfg c = some r → s.sp ≠ 0 → Effect s i (s.push (s.reg r))
  | call (t : Val) (a : Nat) :
      i = .jsr t → targetOf t = some a → s.sp ≠ 0 → Effect s i ((s.push (s.pc : Val)).jump a)
  | pop (c : Val) (r : RegName) :
      i = .pop c → regOf s.cfg c = some r → s.sp < stackSize → Effect s i (s.pop.setReg r (s.slot s.sp))
  | ret (a : Nat) :
      i = .ret → s.sp < stackSize → targetOf (s.slot s.sp) = some a → Effect s i (s.pop.jump a)
  | emit (e : Event) :
      i.decodedRow = .intPrintChar ∨ i.decodedRow = .intPrintInt ∨ i.decodedRow = .intSetPixel →
      Effect s i (s.emit e)
  | draw (e f : Event) : i.decodedRow = .intDrawChar → Effect s i ((s.emit e).emit f)
  | initDisplay (m : DisplayMode) (w h : Int) :
      i.decodedRow = .intDisplayInit → 1 ≤ w → 1 ≤ h → Effect s i (initDisplay m w h s)
  | keys (a b : Val) (k : Option Int) (ports : Ports) :
      i.decodedRow = .intKeyPoll →
      Effect s i
        { s with
          regs := { s.regs with a := a, b := b }
          lastKey := k
          out := s.out ++ [.pressedKeycodes]
          ports := ports }
  | readByte (v : Val) (es : List Event) (ports : Ports) :
      i.decodedRow = .intBlockRead → Effect s i { s with regs := s.regs.set .E v, out := s.out ++ es, ports := ports }
  | wroteByte (es : List Event) (ports : Ports) :
      i.decodedRow = .intBlockWrite → Effect s i { s with out := s.out ++ es, ports := ports }
  | blockError (k : Service) (e : BlockCode) (ports : Ports) :
      k = .blockRead ∨ k = .blockWrite → i.decodedRow = rowOfService k →
      Effect s i
        (afterDelivery (blockCodeOf e) 0
          { s with out := s.out ++ blockCalls (serviceCell k) (blockCodeOf e) s, ports := ports })
  | error : i.decodedRow = .intError → Effect s i (errorInterrupt s)
  | halt : i = .halt ∨ i.decodedRow = .intHalt → Effect s i s.halt
  | fault (k : Category) : Effect s i (afterDelivery (categoryCode k) i.opcode s)

variable {s : State} {i : Instr}

/-! ### The checked operands: the check fails and is delivered, or the meaning goes on -/

theorem effect_withReg {c : Val} {go : RegName → State}
    (h : ∀ r, regOf s.cfg c = some r → Effect s i (go r)) : Effect s i (withReg i.opcode c s go) := by
  unfold withReg
  split
  · exact h _ ‹_›
  · exact .fault .malformed

theorem effect_withRegs {c1 c2 : Val} {go : RegName → RegName → State}
    (h : ∀ r q, regOf s.cfg c1 = some r → regOf s.cfg c2 = some q → Effect s i (go r q)) :
    Effect s i (withRegs i.opcode c1 c2 s go) :=
  effect_withReg fun r hr => effect_withReg fun q hq => h r q hr hq

theorem effect_withAddr {addr : Val} {go : Nat → State}
    (h : ∀ a, addrOf addr = some a → Effect s i (go a)) : Effect s i (withAddr i.opcode addr s go) := by
  unfold withAddr
  split
  · exact h _ ‹_›
  · exact .fault .value

theorem effect_withTarget {t : Val} {go : Nat → State}
    (h : ∀ a, targetOf t = some a → Effect s i (go a)) : Effect s i (withTarget i.opcode t s go) := by
  unfold withTarget
  split
  · exact h _ ‹_›
  · exact .fault .value

theorem effect_withInt {v : Val} {go : Int → State} (h : ∀ n, Effect s i (go n)) :
    Effect s i (withInt i.opcode v s go) := by
  unfold withInt
  split
  · exact h _
  · exact .fault .value

theorem targetOf_lt {t : Val} {a : Nat} (h : targetOf t = some a) : a < memSize := (natBelow_eq_some.mp h).2

theorem addrOf_lt {t : Val} {a : Nat} (h : addrOf t = some a) : a < memSize := (natBelow_eq_some.mp h).2

/-! ### The shared shapes -/

theorem effect_arith {f : Val → Val → Val} {c1 c2 : Val} (hd : destOf i = some c1) :
    Effect s i (arith i.opcode f c1 c2 s) :=
  effect_withRegs fun r _ hr _ => .dest c1 _ r hd hr

theorem effect_bitwise {f : Int → Int → Int} {c1 c2 : Val} (hd : destOf i = some c1) :
    Effect s i (bitwise i.opcode f c1 c2 s) :=
  effect_withRegs fun r _ hr _ => effect_withInt fun _ => effect_withInt fun _ => .dest c1 _ r hd hr

theorem effect_branch {cond : Val → Val → Bool} {c1 c2 t : Val} (hj : jumpOf i = some t) :
    Effect s i (branch i.opcode cond c1 c2 t s) :=
  effect_withRegs fun _ _ _ _ => by
    split
    · exact effect_withTarget fun a ha => .jump t a hj ha
    · exact .stay t hj

theorem blockCalls_early {service : Val} {e : BlockCode} (h : e ≠ .absent ∧ e ≠ .transfer) :
    blockCalls service (blockCodeOf e) s = [] := by
  cases e <;> simp [blockCalls, blockCodeOf] at h ⊢

@[simp] theorem blockCalls_absent (service : Val) :
    blockCalls service (blockCodeOf .absent) s = [.blockExists s.regs.a.num] := by
  simp [blockCalls, blockCodeOf]

@[simp] theorem blockCalls_read :
    blockCalls (serviceCell .blockRead) (blockCodeOf .transfer) s
      = [.blockExists s.regs.a.num, .blockReadByte s.regs.a.num s.regs.b.num s.regs.c.num] := by
  simp [blockCalls, blockCodeOf, serviceCell]

@[simp] theorem blockCalls_write :
    blockCalls (serviceCell .blockWrite) (blockCodeOf .transfer) s
      = [.blockExists s.regs.a.num, .blockWriteByte s.regs.a.num s.regs.b.num s.regs.c.num s.regs.d] := by
  simp [blockCalls, blockCodeOf, serviceCell]

/-- The fields go on as the numerators of A, B and C. -/
theorem effect_blockValidate {go : Int → Int → Int → State → State} {k : Service}
    (hk : k = .blockRead ∨ k = .blockWrite) (hi : i.decodedRow = rowOfService k)
    (h : Effect s i (go s.regs.a.num s.regs.b.num s.regs.c.num (askExists s.regs.a.num s).2)) :
    Effect s i (blockValidate s go) := by
  have fails {e : BlockCode} (he : e ≠ .absent ∧ e ≠ .transfer) : Effect s i (raiseBlock e s) := by
    simpa [blockCalls_early he] using Effect.blockError (s := s) (i := i) k e s.ports hk hi
  unfold blockValidate
  split
  · exact fails (e := .drive) (by simp)
  · rename_i hd
    split
    · exact fails (e := .sector) (by simp)
    · rename_i hs
      split
      · exact fails (e := .offset) (by simp)
      · rename_i ho
        obtain rfl := coordOf_num hd
        obtain rfl := coordOf_num hs
        obtain rfl := coordOf_num ho
        split
        · exact h
        · simpa [askExists, State.emit] using
            Effect.blockError (s := s) (i := i) k .absent (askExists s.regs.a.num s).2.ports hk hi

/-! ### The services -/

theorem effect_printChar {t : State} (hi : i.decodedRow = .intPrintChar) (ho : i.opcode = opcodeCell .int)
    (h : execIntPrintChar s = .next t) : Effect s i t := by
  obtain rfl := Host.Outcome.next.inj h
  exact ho ▸ effect_withInt fun n => .emit _ (.inl hi)

theorem effect_displayInit {t : State} (hi : i.decodedRow = .intDisplayInit) (ho : i.opcode = opcodeCell .int)
    (h : execIntDisplayInit s = .next t) : Effect s i t := by
  obtain rfl := Host.Outcome.next.inj h
  split
  · rename_i hw hh
    exact .initDisplay _ _ _ hi (sizeOf_eq_some.mp hw).2 (sizeOf_eq_some.mp hh).2
  · exact ho ▸ .fault .value

theorem effect_setPixel {t : State} (hi : i.decodedRow = .intSetPixel) (ho : i.opcode = opcodeCell .int)
    (h : execIntSetPixel s = .next t) : Effect s i t := by
  obtain rfl := Host.Outcome.next.inj h
  split
  · split
    · exact .emit _ (.inr (.inr hi))
    · exact ho ▸ .fault .value
  · exact ho ▸ .fault .value
  · exact ho ▸ .fault .value

theorem effect_drawChar {t : State} (hi : i.decodedRow = .intDrawChar) (ho : i.opcode = opcodeCell .int)
    (h : execIntDrawChar s = .next t) : Effect s i t := by
  obtain rfl := Host.Outcome.next.inj h
  split
  · split
    · exact .draw _ _ hi
    · exact ho ▸ .fault .value
  · exact ho ▸ .fault .value
  · exact ho ▸ .fault .value

theorem effect_blockRead {t : State} (hi : i.decodedRow = .intBlockRead) (h : execIntBlockRead s = .next t) :
    Effect s i t := by
  obtain rfl := Host.Outcome.next.inj h
  refine effect_blockValidate (k := .blockRead) (.inl rfl) hi ?_
  generalize hd : s.regs.a.num = d
  generalize hs : s.regs.b.num = sec
  generalize ho : s.regs.c.num = o
  unfold finishRead
  split
  · simpa [State.setReg, askRead, askExists, State.emit] using
      Effect.readByte (s := s) (i := i) _ [.blockExists d, .blockReadByte d sec o]
        (askRead d sec o (askExists d s).2).2.ports hi
  · simpa [askRead, askExists, State.emit, hd, hs, ho] using
      Effect.blockError (s := s) (i := i) .blockRead .transfer (askRead d sec o (askExists d s).2).2.ports (.inl rfl) hi

theorem effect_blockWrite {t : State} (hi : i.decodedRow = .intBlockWrite) (h : execIntBlockWrite s = .next t) :
    Effect s i t := by
  obtain rfl := Host.Outcome.next.inj h
  refine effect_blockValidate (k := .blockWrite) (.inr rfl) hi ?_
  generalize hd : s.regs.a.num = d
  generalize hs : s.regs.b.num = sec
  generalize ho : s.regs.c.num = o
  unfold finishWrite
  split
  · simpa [askWrite, askExists, State.emit] using
      Effect.wroteByte (s := s) (i := i) [.blockExists d, .blockWriteByte d sec o s.regs.d]
        (askWrite d sec o s.regs.d (askExists d s).2).2.ports hi
  · simpa [askWrite, askExists, State.emit, hd, hs, ho] using
      Effect.blockError (s := s) (i := i) .blockWrite .transfer
        (askWrite d sec o s.regs.d (askExists d s).2).2.ports (.inr rfl) hi

theorem effect_keyPoll {t : State} (hi : i.decodedRow = .intKeyPoll) (h : execIntKeyPoll s = .next t) :
    Effect s i t := by
  obtain rfl := Host.Outcome.next.inj h
  unfold reportKeys
  split <;> exact .keys _ _ _ _ hi

theorem effect_printInt {t : State} (hi : i.decodedRow = .intPrintInt) (h : execIntPrintInt s = .next t) :
    Effect s i t := by
  obtain rfl := Host.Outcome.next.inj h
  exact .emit _ (.inr (.inl hi))

theorem effect_int {code : Val} {t : State} (h : execInt code s = .next t) : Effect s (.int code) t := by
  unfold execInt at h
  have row {k : Service} (hk : serviceOf code = some k) : (Instr.int code).decodedRow = rowOfService k :=
    serviceRow_of_some hk
  split at h
  next hk => exact effect_printChar (row hk) rfl h
  next hk => exact effect_printInt (row hk) h
  next hk => exact effect_displayInit (row hk) rfl h
  next hk => exact effect_setPixel (row hk) rfl h
  next hk => exact effect_drawChar (row hk) rfl h
  next hk => exact effect_keyPoll (row hk) h
  next hk => exact effect_blockRead (row hk) h
  next hk => exact effect_blockWrite (row hk) h
  next hk => exact Host.Outcome.next.inj h ▸ .error (row hk)
  next hk => exact Host.Outcome.next.inj h ▸ .halt (.inr (row hk))
  next hk => exact Host.Outcome.next.inj h ▸ .fault .value

/-- Everything an instruction can do. -/
theorem exec_effect {t : State} (h : exec i s = .next t) : Effect s i t := by
  cases i with
  | int code => exact effect_int h
  | intPrintChar => exact effect_printChar rfl rfl h
  | intPrintInt => exact effect_printInt rfl h
  | intDisplayInit => exact effect_displayInit rfl rfl h
  | intSetPixel => exact effect_setPixel rfl rfl h
  | intDrawChar => exact effect_drawChar rfl rfl h
  | intKeyPoll => exact effect_keyPoll rfl h
  | intBlockRead => exact effect_blockRead rfl h
  | intBlockWrite => exact effect_blockWrite rfl h
  | intError => exact Host.Outcome.next.inj h ▸ .error rfl
  | intHalt => exact Host.Outcome.next.inj h ▸ .halt (.inr rfl)
  | intUnknown code => exact Host.Outcome.next.inj h ▸ .fault .value
  | illegal op => exact Host.Outcome.next.inj h ▸ .fault .malformed
  | halt => exact Host.Outcome.next.inj h ▸ .halt (.inl rfl)
  | ldw c v => exact Host.Outcome.next.inj h ▸ effect_withReg fun r hr => .dest c _ r rfl hr
  | mov c q => exact Host.Outcome.next.inj h ▸ effect_withRegs fun r _ hr _ => .dest c _ r rfl hr
  | add c q => exact Host.Outcome.next.inj h ▸ effect_arith rfl
  | sub c q => exact Host.Outcome.next.inj h ▸ effect_arith rfl
  | mul c q => exact Host.Outcome.next.inj h ▸ effect_arith rfl
  | xor c q => exact Host.Outcome.next.inj h ▸ effect_bitwise rfl
  | and c q => exact Host.Outcome.next.inj h ▸ effect_bitwise rfl
  | bne c q t => exact Host.Outcome.next.inj h ▸ effect_branch rfl
  | beq c q t => exact Host.Outcome.next.inj h ▸ effect_branch rfl
  | blt c q t => exact Host.Outcome.next.inj h ▸ effect_branch rfl
  | jmp t => exact Host.Outcome.next.inj h ▸ effect_withTarget fun a ha => .jump t a rfl ha
  | str c addr =>
    exact Host.Outcome.next.inj h ▸
      effect_withReg fun r hr => effect_withAddr fun a ha => .store c addr r a rfl hr ha
  | ldr c addr =>
    exact Host.Outcome.next.inj h ▸
      effect_withReg fun r hr => effect_withAddr fun a _ => .dest c _ r rfl hr
  | div c q =>
    refine Host.Outcome.next.inj h ▸ effect_withRegs fun r _ hr _ => ?_
    split
    · exact .fault .division
    · exact .dest c _ r rfl hr
  | jsr t =>
    refine Host.Outcome.next.inj h ▸ effect_withTarget fun a ha => ?_
    split
    · exact .fault .stack
    · exact .call t a rfl ha ‹_›
  | ret =>
    obtain rfl := Host.Outcome.next.inj h
    split
    · exact .fault .stack
    · exact effect_withTarget fun a ha => .ret a rfl (not_le.mp ‹_›) ha
  | push c =>
    refine Host.Outcome.next.inj h ▸ effect_withReg fun r hr => ?_
    split
    · exact .fault .stack
    · exact .push c r rfl hr ‹_›
  | pop c =>
    refine Host.Outcome.next.inj h ▸ effect_withReg fun r hr => ?_
    split
    · exact .fault .stack
    · exact .pop c r rfl hr (not_le.mp ‹_›)

/-- No service writes a register it names. -/
theorem destOf_serviceRow (code : Val) : destOf (serviceRow code) = none := by
  cases h : serviceOf code with
  | some k => rw [serviceRow_of_some h]; cases k <;> rfl
  | none => rw [serviceRow_unlisted h]; rfl

/-- The destination operand of a decoded instruction is its first operand cell. -/
theorem destOf_decodeCells {c : Cells} {x : Val} (h : destOf (decodeCells c) = some x) :
    x = c.c1 ∧ c.c0 ∈ [0x01, 0x02, 0x03, 0x04, 0x06, 0x0F, 0x10, 0x12, 0x13] := by
  cases ho : opcodeOf c.c0 with
  | none => simp [decodeCells, ho, destOf] at h
  | some o =>
    rw [opcodeOf_eq_some.mp ho]
    simp only [decodeCells, ho] at h
    cases o
    case int => simp [destOf_serviceRow] at h
    all_goals first | exact ⟨(Option.some.inj h).symm, by simp [opcodeCell]⟩ | exact nomatch h

/-- No service is a jump. -/
theorem jumpOf_serviceRow (code : Val) : jumpOf (serviceRow code) = none := by
  cases h : serviceOf code with
  | some k => rw [serviceRow_of_some h]; cases k <;> rfl
  | none => rw [serviceRow_unlisted h]; rfl

/-- The target of a decoded branch is its third operand cell, that of a decoded JMP its first. -/
theorem jumpOf_decodeCells {c : Cells} {t : Val} (h : jumpOf (decodeCells c) = some t) :
    (c.c0 ∈ [0x08, 0x09, 0x14] ∧ t = c.c3) ∨ (c.c0 = 0x11 ∧ t = c.c1) := by
  cases ho : opcodeOf c.c0 with
  | none => simp [decodeCells, ho, jumpOf] at h
  | some o =>
    rw [opcodeOf_eq_some.mp ho]
    simp only [decodeCells, ho] at h
    cases o
    case int => simp [jumpOf_serviceRow] at h
    case jmp => exact .inr ⟨rfl, (Option.some.inj h).symm⟩
    all_goals first | exact .inl ⟨by simp [opcodeCell], (Option.some.inj h).symm⟩ | exact nomatch h

/-- Every instruction answers a next state: a fault of the spec is delivered, and a delivery is one (R104). -/
theorem exec_next (i : Instr) (s : State) : ∃ t, exec i s = .next t := by
  cases i with
  | int code =>
    show ∃ t, execInt code s = .next t
    unfold execInt
    split <;> exact ⟨_, rfl⟩
  | _ => exact ⟨_, rfl⟩

end Sys2Proof.Machine
end

