-- ==== Sys2Proof/Laws/Memory.lean ====
section
/-! SUPPORT. The laws of memory as a canonical list: what a read gives after a write, and that every memory operation
keeps the form. -/

namespace Sys2Proof.Machine

/-- A read of another cell does not see a write (whatever the list). -/
theorem Memory.read_write_other (m : Memory) {a b : Nat} (v : Val) (h : b ≠ a) : (m.write a v).read b = m.read b := by
  induction m with
  | nil => by_cases hv : v = Memory.blank <;> simp [Memory.write, Memory.read, hv, Ne.symm h]
  | cons p m ih =>
    obtain ⟨k, w⟩ := p
    simp only [Memory.write]
    split_ifs with h1 h2 h3 h4
    · rfl
    · simp [Memory.read, Ne.symm h]
    · have hk : k ≠ b := h3 ▸ Ne.symm h
      simp [Memory.read, hk]
    · have hk : k ≠ b := h3 ▸ Ne.symm h
      simp [Memory.read, hk, Ne.symm h]
    · simp [Memory.read, ih]

/-- A cell that is not listed reads as blank. -/
theorem Memory.read_unlisted {m : Memory} {a : Nat} (h : ∀ p ∈ m, p.1 ≠ a) : m.read a = Memory.blank := by
  induction m with
  | nil => rfl
  | cons p m ih =>
    obtain ⟨k, w⟩ := p
    simp only [Memory.read, if_neg (h (k, w) (by simp))]
    exact ih fun p hp => h p (List.mem_cons_of_mem _ hp)

/-- Above the last cell, a memory in the canonical form reads as blank. -/
theorem Memory.read_above {m : Memory} (h : m.wf) {a : Nat} (ha : memSize ≤ a) : m.read a = Memory.blank :=
  Memory.read_unlisted fun p hp => by have := (h.2 p hp).1; omega

/-- A write is read back, in a list in the canonical form. -/
theorem Memory.read_write_same {m : Memory} (h : m.Pairwise fun p q => p.1 < q.1) (a : Nat) (v : Val) :
    (m.write a v).read a = v := by
  induction m with
  | nil => by_cases hv : v = Memory.blank <;> simp [Memory.write, Memory.read, hv]
  | cons p m ih =>
    obtain ⟨k, w⟩ := p
    obtain ⟨hlt, hm⟩ := List.pairwise_cons.mp h
    simp only [Memory.write]
    split_ifs with h1 h2 h3 h4
    · subst h2
      refine Memory.read_unlisted fun p hp => ?_
      rcases List.mem_cons.mp hp with rfl | hp
      · exact h1.ne'
      · exact (h1.trans (hlt p hp)).ne'
    · simp [Memory.read]
    · subst h4
      exact Memory.read_unlisted fun p hp => h3 ▸ (hlt p hp).ne'
    · simp [Memory.read]
    · simp [Memory.read, Ne.symm h3, ih hm]

/-- Every entry of a written list is an old one or the one written. -/
theorem Memory.mem_write {m : Memory} {a : Nat} {v : Val} {p : Nat × Val} (h : p ∈ m.write a v) :
    p ∈ m ∨ (p = (a, v) ∧ v ≠ Memory.blank) := by
  induction m with
  | nil =>
    simp only [Memory.write] at h
    split_ifs at h with hv
    · simp at h
    · exact .inr ⟨by simpa using h, hv⟩
  | cons q m ih =>
    obtain ⟨k, w⟩ := q
    simp only [Memory.write] at h
    split_ifs at h with h1 h2 h3 h4
    · exact .inl h
    · rcases List.mem_cons.mp h with rfl | h
      · exact .inr ⟨rfl, h2⟩
      · exact .inl h
    · exact .inl (List.mem_cons_of_mem _ h)
    · rcases List.mem_cons.mp h with rfl | h
      · exact .inr ⟨rfl, h4⟩
      · exact .inl (List.mem_cons_of_mem _ h)
    · rcases List.mem_cons.mp h with rfl | h
      · exact .inl (List.mem_cons_self ..)
      · rcases ih h with h | h
        · exact .inl (List.mem_cons_of_mem _ h)
        · exact .inr h

/-- A write keeps the order. -/
theorem Memory.write_pairwise {m : Memory} (h : m.Pairwise fun p q => p.1 < q.1) (a : Nat) (v : Val) :
    (m.write a v).Pairwise fun p q => p.1 < q.1 := by
  induction m with
  | nil => by_cases hv : v = Memory.blank <;> simp [Memory.write, hv]
  | cons p m ih =>
    obtain ⟨k, w⟩ := p
    obtain ⟨hlt, hm⟩ := List.pairwise_cons.mp h
    simp only [Memory.write]
    split_ifs with h1 h2 h3 h4
    · exact h
    · refine List.pairwise_cons.mpr ⟨fun p hp => ?_, h⟩
      rcases List.mem_cons.mp hp with rfl | hp
      · exact h1
      · exact h1.trans (hlt p hp)
    · exact hm
    · exact List.pairwise_cons.mpr ⟨fun p hp => h3 ▸ hlt p hp, hm⟩
    · refine List.pairwise_cons.mpr ⟨fun p hp => ?_, ih hm⟩
      rcases Memory.mem_write hp with hp | ⟨rfl, -⟩
      · exact hlt p hp
      · show k < a
        omega

/-- A write to a cell of the machine keeps the canonical form. -/
theorem Memory.write_wf {m : Memory} (h : m.wf) {a : Nat} (ha : a < memSize) (v : Val) : (m.write a v).wf := by
  refine ⟨Memory.write_pairwise h.1 a v, fun p hp => ?_⟩
  rcases Memory.mem_write hp with hp | ⟨rfl, hv⟩
  · exact h.2 p hp
  · exact ⟨ha, hv⟩

/-- Writing cells in a row keeps the canonical form. -/
theorem Memory.writeAll_wf {m : Memory} (h : m.wf) (a : Nat) (vs : List Val) : (m.writeAll a vs).wf := by
  induction vs generalizing m a with
  | nil => exact h
  | cons v vs ih =>
    simp only [Memory.writeAll]
    split_ifs with ha
    · exact ih (Memory.write_wf h ha v) _
    · exact ih h _

/-- Writing cells in a row reaches no cell below the first. -/
theorem Memory.read_writeAll_below (m : Memory) {a b : Nat} (vs : List Val) (h : b < a) :
    (m.writeAll a vs).read b = m.read b := by
  induction vs generalizing m a with
  | nil => rfl
  | cons v vs ih =>
    simp only [Memory.writeAll]
    rw [ih _ (by omega)]
    split_ifs
    · exact Memory.read_write_other m v h.ne
    · rfl

/-- What cells written in a row read as. -/
theorem Memory.read_writeAll {m : Memory} (h : m.wf) (a : Nat) (vs : List Val) (b : Nat) (hb : b < memSize) :
    (m.writeAll a vs).read b = if h : a ≤ b ∧ b - a < vs.length then vs[b - a] else m.read b := by
  induction vs generalizing m a with
  | nil => simp [Memory.writeAll]
  | cons v vs ih =>
    simp only [Memory.writeAll]
    rcases lt_trichotomy b a with hlt | rfl | hgt
    · have hn : ¬ (a ≤ b) := by omega
      rw [Memory.read_writeAll_below _ _ (by omega), dif_neg (fun e => hn e.1)]
      split_ifs
      · exact Memory.read_write_other m v hlt.ne
      · rfl
    · rw [Memory.read_writeAll_below _ _ (by omega), if_pos hb, Memory.read_write_same h.1]
      simp
    · have hsub : b - a = (b - (a + 1)) + 1 := by omega
      have hwf : (if a < memSize then m.write a v else m).wf := by
        split_ifs with ha
        · exact Memory.write_wf h ha v
        · exact h
      have hread : Memory.read (if a < memSize then m.write a v else m) b = m.read b := by
        split_ifs
        · exact Memory.read_write_other m v hgt.ne'
        · rfl
      rw [ih hwf (a + 1), hread]
      by_cases hin : b - (a + 1) < vs.length
      · rw [dif_pos ⟨by omega, hin⟩, dif_pos ⟨hgt.le, by simp; omega⟩]
        simp [hsub]
      · rw [dif_neg (by omega), dif_neg (by simp; omega)]

end Sys2Proof.Machine
end

