-- ==== Sys2Proof/Laws/Ops.lean ====
section
/-! SUPPORT. What each checked operand and each shared shape does, one lemma per outcome. -/

namespace Sys2Proof.Machine

variable {op c c1 c2 addr t v : Val} {s : State} {r i j : RegName}

theorem withReg_some {go : RegName → State} (h : regOf s.cfg c = some r) : withReg op c s go = go r := by
  simp [withReg, h]

theorem withReg_none {go : RegName → State} (h : regOf s.cfg c = none) : withReg op c s go = afterDelivery 2 op s := by
  simp [withReg, h, categoryCode]

theorem withRegs_some {go : RegName → RegName → State} (h1 : regOf s.cfg c1 = some i) (h2 : regOf s.cfg c2 = some j) :
    withRegs op c1 c2 s go = go i j := by
  simp [withRegs, withReg, h1, h2]

theorem withRegs_none {go : RegName → RegName → State} (h : regOf s.cfg c1 = none ∨ regOf s.cfg c2 = none) :
    withRegs op c1 c2 s go = afterDelivery 2 op s := by
  cases h1 : regOf s.cfg c1 with
  | none => exact withReg_none h1
  | some i =>
    rw [withRegs, withReg_some h1]
    exact withReg_none (h.resolve_left (by simp [h1]))

theorem withAddr_some {go : Nat → State} {a : Nat} (h : addrOf addr = some a) : withAddr op addr s go = go a := by
  simp [withAddr, h]

theorem withAddr_none {go : Nat → State} (h : addrOf addr = none) : withAddr op addr s go = afterDelivery 1 op s := by
  simp [withAddr, h, categoryCode]

theorem withTarget_some {go : Nat → State} {a : Nat} (h : targetOf t = some a) : withTarget op t s go = go a := by
  simp [withTarget, h]

theorem withTarget_none {go : Nat → State} (h : targetOf t = none) : withTarget op t s go = afterDelivery 1 op s := by
  simp [withTarget, h, categoryCode]

@[simp] theorem withInt_intCast {go : Int → State} (n : Int) : withInt op (n : Val) s go = go n := by
  simp [withInt]

theorem withInt_none {go : Int → State} (h : isInt v = false) : withInt op v s go = afterDelivery 1 op s := by
  simp [withInt, intOf_eq_none.mpr h, categoryCode]

/-- ADD, SUB and MUL write the first register and nothing else. -/
theorem arith_writesReg (f : Val → Val → Val) (h1 : regOf s.cfg c1 = some i) (h2 : regOf s.cfg c2 = some j) :
    writesReg i (f (s.reg i) (s.reg j)) s (arith op f c1 c2 s) := by
  rw [arith, withRegs_some h1 h2]
  exact setReg_writesReg s i _

/-- XOR and AND of two integers write the first register and nothing else. -/
theorem bitwise_writesReg (f : Int → Int → Int) {m n : Int} (h1 : regOf s.cfg c1 = some i)
    (h2 : regOf s.cfg c2 = some j) (hm : s.reg i = (m : Val)) (hn : s.reg j = (n : Val)) :
    writesReg i (f m n : Int) s (bitwise op f c1 c2 s) := by
  rw [bitwise, withRegs_some h1 h2, hm, hn, withInt_intCast, withInt_intCast]
  exact setReg_writesReg s i _

/-- A value that is not an integer makes XOR and AND deliver Fault(1). -/
theorem bitwise_notInt (f : Int → Int → Int) (h1 : regOf s.cfg c1 = some i) (h2 : regOf s.cfg c2 = some j)
    (h : isInt (s.reg i) = false ∨ isInt (s.reg j) = false) : bitwise op f c1 c2 s = afterDelivery 1 op s := by
  rw [bitwise, withRegs_some h1 h2]
  by_cases hi : isInt (s.reg i) = false
  · exact withInt_none hi
  · have hs : ∃ m, intOf (s.reg i) = some m := by
      rw [← Option.ne_none_iff_exists']
      exact fun e => hi (intOf_eq_none.mp e)
    obtain ⟨m, hm⟩ := hs
    rw [intOf_eq_some.mp hm, withInt_intCast]
    exact withInt_none (h.resolve_left hi)

end Sys2Proof.Machine
end

