-- ==== Sys2Proof/Laws/PerInstr.lean ====
section
/-! SUPPORT. The per-instruction family `EncodedLength`: an instruction encodes to as many cells as its opcode cell says
(R71: "must be identical in Checker, Encoder, and fetch logic"; R91), its opcode cell first (R70). -/

namespace Sys2Proof.Laws.EncodedLength

/-- The encoding begins with the opcode cell and has the length of that opcode. -/
def Statement (i : Instr) : Prop :=
  i.ownRow = true → (encode i).head? = some i.opcode ∧ (encode i).length = instrLen i.opcode

theorem halt : Statement .halt := fun _ => ⟨rfl, rfl⟩
theorem ldw (reg imm : Val) : Statement (.ldw reg imm) := fun _ => ⟨rfl, rfl⟩
theorem mov (dst src : Val) : Statement (.mov dst src) := fun _ => ⟨rfl, rfl⟩
theorem add (dst src : Val) : Statement (.add dst src) := fun _ => ⟨rfl, rfl⟩
theorem sub (dst src : Val) : Statement (.sub dst src) := fun _ => ⟨rfl, rfl⟩
theorem str (reg addr : Val) : Statement (.str reg addr) := fun _ => ⟨rfl, rfl⟩
theorem ldr (reg addr : Val) : Statement (.ldr reg addr) := fun _ => ⟨rfl, rfl⟩
theorem bne (r1 r2 target : Val) : Statement (.bne r1 r2 target) := fun _ => ⟨rfl, rfl⟩
theorem beq (r1 r2 target : Val) : Statement (.beq r1 r2 target) := fun _ => ⟨rfl, rfl⟩
theorem int (code : Val) : Statement (.int code) := fun _ => ⟨rfl, rfl⟩
theorem push (reg : Val) : Statement (.push reg) := fun _ => ⟨rfl, rfl⟩
theorem pop (reg : Val) : Statement (.pop reg) := fun _ => ⟨rfl, rfl⟩
theorem jsr (target : Val) : Statement (.jsr target) := fun _ => ⟨rfl, rfl⟩
theorem ret : Statement .ret := fun _ => ⟨rfl, rfl⟩
theorem xor (r1 r2 : Val) : Statement (.xor r1 r2) := fun _ => ⟨rfl, rfl⟩
theorem and (r1 r2 : Val) : Statement (.and r1 r2) := fun _ => ⟨rfl, rfl⟩
theorem jmp (target : Val) : Statement (.jmp target) := fun _ => ⟨rfl, rfl⟩
theorem mul (r1 r2 : Val) : Statement (.mul r1 r2) := fun _ => ⟨rfl, rfl⟩
theorem div (r1 r2 : Val) : Statement (.div r1 r2) := fun _ => ⟨rfl, rfl⟩
theorem blt (r1 r2 target : Val) : Statement (.blt r1 r2 target) := fun _ => ⟨rfl, rfl⟩
theorem intPrintChar : Statement .intPrintChar := fun _ => ⟨rfl, rfl⟩
theorem intPrintInt : Statement .intPrintInt := fun _ => ⟨rfl, rfl⟩
theorem intDisplayInit : Statement .intDisplayInit := fun _ => ⟨rfl, rfl⟩
theorem intSetPixel : Statement .intSetPixel := fun _ => ⟨rfl, rfl⟩
theorem intDrawChar : Statement .intDrawChar := fun _ => ⟨rfl, rfl⟩
theorem intKeyPoll : Statement .intKeyPoll := fun _ => ⟨rfl, rfl⟩
theorem intBlockRead : Statement .intBlockRead := fun _ => ⟨rfl, rfl⟩
theorem intBlockWrite : Statement .intBlockWrite := fun _ => ⟨rfl, rfl⟩
theorem intError : Statement .intError := fun _ => ⟨rfl, rfl⟩
theorem intHalt : Statement .intHalt := fun _ => ⟨rfl, rfl⟩
theorem intUnknown (code : Val) : Statement (.intUnknown code) := fun _ => ⟨rfl, rfl⟩
theorem illegal (op : Val) : Statement (.illegal op) := fun h =>
  ⟨rfl, by
    have hn : opcodeOf op = none := opcodeOf_eq_none.mpr fun o e => by
      have := isListedOpcode_iff.mpr ⟨o, e⟩
      simp [Instr.ownRow, this] at h
    exact (instrLen_unlisted hn).symm⟩

end Sys2Proof.Laws.EncodedLength
end

