-- ==== Sys2Proof/Laws/Step.lean ====
section
/-! SUPPORT. What a step can do, said once (`step_cases`), and what
the fetch reads. -/

namespace Sys2Proof.Machine

/-- The state in which the fetched instruction executes (R100). -/
def fetched (s : State) : State := s.advance (instrLen (s.cell s.pc))

variable {s t : State}

@[simp] theorem fetched_cfg (s : State) : (fetched s).cfg = s.cfg := rfl
@[simp] theorem fetched_regs (s : State) : (fetched s).regs = s.regs := rfl
@[simp] theorem fetched_pc (s : State) : (fetched s).pc = s.pc + instrLen (s.cell s.pc) := rfl
@[simp] theorem fetched_sp (s : State) : (fetched s).sp = s.sp := rfl
@[simp] theorem fetched_stack (s : State) : (fetched s).stack = s.stack := rfl
@[simp] theorem fetched_run (s : State) : (fetched s).run = s.run := rfl
@[simp] theorem fetched_display (s : State) : (fetched s).display = s.display := rfl
@[simp] theorem fetched_lastKey (s : State) : (fetched s).lastKey = s.lastKey := rfl
@[simp] theorem fetched_mem (s : State) : (fetched s).mem = s.mem := rfl
@[simp] theorem fetched_cycles (s : State) : (fetched s).cycles = s.cycles + 1 := rfl
@[simp] theorem fetched_out (s : State) : (fetched s).out = s.out := rfl
@[simp] theorem fetched_faulted (s : State) : (fetched s).faulted = s.faulted := rfl
@[simp] theorem fetched_ports (s : State) : (fetched s).ports = s.ports := rfl

/-- The opcode cell is fetched from memory as it is. -/
theorem fetchCells_c0 (h : s.pc < memSize) : (fetchCells s).c0 = s.cell s.pc := by simp [fetchCells, fetchCell, h]

/-- The opcode cell of the instruction that a step executes. -/
theorem cell_pc_of_opcode (h : s.pc < memSize) {op : Val} (ho : (decodeCells (fetchCells s)).opcode = op) :
    s.cell s.pc = op := by
  rw [← ho, decodeCells_opcode, fetchCells_c0 h]

/-- A step that executes a service's row fetched INT with that service's code. -/
theorem cells_pc_of_service (h : s.pc < memSize) {k : Service}
    (hk : (decodeCells (fetchCells s)).decodedRow = rowOfService k) :
    s.cell s.pc = opcodeCell .int ∧ fetchCell s (s.pc + 1) = serviceCell k := by
  rw [decodeCells_decodedRow] at hk
  rw [← fetchCells_c0 h]
  exact cells_of_service hk

/-- A running engine with `pc` in memory: the step is the execution, then the sample. -/
theorem step_running (hr : s.run = .running) (hp : s.pc < memSize) {u : State}
    (he : exec (decodeCells (fetchCells s)) (fetched s) = .next u) : step s = .next (hostSample u) := by
  have he' : exec (decodeCells (fetchCells s)) (s.advance (instrLen (fetchCells s).c0)) = .next u := by
    rw [fetchCells_c0 hp]; exact he
  simp [step, hr, Nat.not_le.mpr hp, he']

/-- Everything a step that answers a next state can be: the end-of-memory halt, or an executed instruction and the
host's sample. -/
theorem step_cases (h : step s = .next t) :
    s.run = .running ∧
    ((memSize ≤ s.pc ∧ t = s.halt) ∨
      (s.pc < memSize ∧ ∃ u, exec (decodeCells (fetchCells s)) (fetched s) = .next u ∧ t = hostSample u)) := by
  cases hr : s.run with
  | halted => simp [step, hr] at h
  | running =>
    refine ⟨rfl, ?_⟩
    by_cases hp : memSize ≤ s.pc
    · simp only [step, hr, if_pos hp] at h
      exact .inl ⟨hp, (Host.Outcome.next.inj h).symm⟩
    · have hp' := Nat.lt_of_not_le hp
      obtain ⟨u, hu⟩ := exec_next (decodeCells (fetchCells s)) (fetched s)
      exact .inr ⟨hp', u, hu, Host.Outcome.next.inj (h.symm.trans (step_running hr hp' hu))⟩

/-- The same with everything the instruction can do: the form the rules of the whole machine are read off. -/
theorem step_effect (h : step s = .next t) :
    s.run = .running ∧
    ((memSize ≤ s.pc ∧ t = s.halt) ∨
      (s.pc < memSize ∧ ∃ u, Effect (fetched s) (decodeCells (fetchCells s)) u ∧ t = hostSample u)) := by
  obtain ⟨hr, h | ⟨hp, u, hu, rfl⟩⟩ := step_cases h
  · exact ⟨hr, .inl h⟩
  · exact ⟨hr, .inr ⟨hp, u, exec_effect hu, rfl⟩⟩

/-- An induction over reached states, packaged once. -/
theorem Reaches.keeps {P : State → Prop} (h0 : P s) (hs : ∀ t u, P t → Machine.step t = .next u → P u)
    (h : Reaches s t) : P t := by
  induction h with
  | refl => exact h0
  | step _ ht ih => exact hs _ _ ih ht

/-- What a fetch sees in a state that differs in registers, output and the like only. -/
theorem fetchCell_congr {s t : State} (h : t.mem = s.mem) (n : Nat) : fetchCell t n = fetchCell s n := by
  simp [fetchCell, State.cell, h]

/-- The word placed by `withFetchWord` is fetched: its first cell stands at `pc`. -/
theorem withFetchWord_cell (s : State) (hm : s.mem.wf) (nbits w k : Nat) (hk : k < 4)
    (hb : s.pc + k < memSize) :
    fetchCell (s.withFetchWord nbits w) (s.pc + k) = tableCell w k := by
  have hread := Memory.read_writeAll hm s.pc (tableCells w) (s.pc + k) hb
  have hlen : s.pc ≤ s.pc + k ∧ s.pc + k - s.pc < (tableCells w).length := by simp [tableCells]; omega
  simp only [fetchCell, hb, if_true, State.cell, State.withFetchWord, hread, dif_pos hlen]
  have : s.pc + k - s.pc = k := by omega
  simp only [this]
  match k, hk with
  | 0, _ => rfl
  | 1, _ => rfl
  | 2, _ => rfl
  | 3, _ => rfl

end Sys2Proof.Machine
end

