-- ==== Sys2Proof/Tests/Slice0.lean ====
section
/-! SUPPORT. Tests and witnesses. The words are written out from the encoding tables of spec 30_encoding.md (R72, R76)
and 45_interrupt_services.md (R161); the expected results are the vectors of spec 95_test_vectors.md, cited by their
ids (all of them derived by hand there, none from a run). -/

namespace Sys2Proof.Tests

open Sys2Proof Sys2Proof.Machine

-- One theorem at a time: each `decide +kernel` waits for the kernel, and waiting threads would pile up.
set_option Elab.async false

/-! ### WellFormed: an ill-formed term for each check -/

theorem test_illFormed_badRegister : (Instr.ldw 6 5).wellFormed = false := by decide +kernel
theorem test_illFormed_secondRegister : (Instr.bne 0 (-1) 5).wellFormed = false := by decide +kernel
theorem test_illFormed_fractionalRegister : (Instr.push (1 / 2)).wellFormed = false := by decide +kernel
theorem test_illFormed_listedOpcode : (Instr.illegal 0x14).wellFormed = false := by decide +kernel
theorem test_illFormed_listedService : (Instr.intUnknown 0xF6).wellFormed = false := by decide +kernel
theorem test_wellFormed :
    (Instr.ldw 5 (-3)).wellFormed = true ∧ (Instr.illegal 7).wellFormed = true ∧
    (Instr.illegal 0x15).wellFormed = true ∧ (Instr.intUnknown 2).wellFormed = true := by decide +kernel

/-! ### Decoding: a word of every row -/

/-- R72, R76: format N. -/
theorem test_decode_N :
    decode [0x00, 0, 0] = .ok (.halt, []) ∧ decode [0x0E, 0, 0] = .ok (.ret, []) := by decide +kernel

/-- R72, R76: formats RI and RA. -/
theorem test_decode_RI :
    decode [0x01, 4, -9] = .ok (.ldw 4 (-9), []) ∧ decode [0x05, 2, 200] = .ok (.str 2 200, []) ∧
    decode [0x06, 3, 201] = .ok (.ldr 3 201, []) := by decide +kernel

/-- R72, R76: format RR. -/
theorem test_decode_RR :
    decode [0x02, 1, 2] = .ok (.mov 1 2, []) ∧ decode [0x03, 1, 2] = .ok (.add 1 2, []) ∧
    decode [0x04, 1, 2] = .ok (.sub 1 2, []) ∧ decode [0x0F, 1, 2] = .ok (.xor 1 2, []) ∧
    decode [0x10, 1, 2] = .ok (.and 1 2, []) ∧ decode [0x12, 1, 2] = .ok (.mul 1 2, []) ∧
    decode [0x13, 1, 2] = .ok (.div 1 2, []) := by decide +kernel

/-- R71, R72, R76: the four-cell branches. -/
theorem test_decode_RRL :
    decode [0x08, 1, 2, 40] = .ok (.bne 1 2 40, []) ∧ decode [0x09, 1, 2, 41] = .ok (.beq 1 2 41, []) ∧
    decode [0x14, 1, 2, 42] = .ok (.blt 1 2 42, []) := by decide +kernel

/-- R72, R76: one register, one label. -/
theorem test_decode_R_L :
    decode [0x0B, 5, 0] = .ok (.push 5, []) ∧ decode [0x0C, 4, 0] = .ok (.pop 4, []) ∧
    decode [0x0D, 50, 0] = .ok (.jsr 50, []) ∧ decode [0x11, 51, 0] = .ok (.jmp 51, []) := by decide +kernel

/-- R161, R173: the words of the row INT are the words of its services. -/
theorem test_decode_INT :
    decode [0x0A, 0x00, 0] = .ok (.intPrintChar, []) ∧ decode [0x0A, 0x01, 0] = .ok (.intPrintInt, []) ∧
    decode [0x0A, 0x70, 0] = .ok (.intDisplayInit, []) ∧ decode [0x0A, 0x71, 0] = .ok (.intSetPixel, []) ∧
    decode [0x0A, 0x72, 0] = .ok (.intDrawChar, []) := by decide +kernel

/-- R161, R173. -/
theorem test_decode_INT_more :
    decode [0x0A, 0xF6, 0] = .ok (.intKeyPoll, []) ∧
    decode [0x0A, 0x80, 0] = .ok (.intBlockRead, []) ∧ decode [0x0A, 0x81, 0] = .ok (.intBlockWrite, []) ∧
    decode [0x0A, 0xFE, 0] = .ok (.intError, []) ∧ decode [0x0A, 0xFF, 0] = .ok (.intHalt, []) ∧
    decode [0x0A, 0x100, 0] = .ok (.intUnknown 0x100, []) := by decide +kernel

/-- R78: the reserved opcode, one past the table, one below it. -/
theorem test_decode_ILLEGAL :
    decode [0x07, 0, 0] = .ok (.illegal 7, []) ∧ decode [0x15, 0, 0] = .ok (.illegal 21, []) ∧
    decode [-1, 0, 0] = .ok (.illegal (-1), []) := by decide +kernel

theorem test_decode_rejects : decode [] = .error .noCell ∧ decode [0x08, 0, 1] = .error (.truncated 8) := by
  decide +kernel

/-- Scenario S1 of spec 95_test_vectors.md: its source, encoded, is its listed cells. -/
theorem test_encode_S1 :
    encodeProgram [.ldw 0 5, .ldw 1 5, .beq 0 1 13, .ldw 2 1, .int 0xFF]
      = [1, 0, 5, 1, 1, 5, 9, 0, 1, 13, 1, 2, 1, 10, 255, 0] := by decide +kernel

/-- A word of the opcode table, first cell in its lowest byte. -/
theorem test_tableWord : decodeTableWord 24 0x050001 = some (.ldw 0 5) ∧ decodeTableWord 16 0xFF0A = some .intHalt := by
  decide +kernel

/-! ### One step on a small state -/

/-- `s` with cells placed at `a` and `pc` there. -/
def placed (s : State) (a : Nat) (cells : List Val) : State := { s with pc := a, mem := s.mem.writeAll a cells }

/-- The reset state with registers A, B, C, D. -/
def withABCD (a b c d : Val) : State := { State.reset with regs := ⟨a, b, c, d, 0, 0⟩ }

/-- The reset state with a display. -/
def withDisplay (m : DisplayMode) (w h : Int) (a b c : Val) : State :=
  { withABCD a b c 0 with display := some ⟨m, w, h⟩, ports := ⟨[], [], [], [], [false], [false], 0⟩ }

/-- A step answers a next state in which `p` holds. -/
def steps (s : State) (p : State → Bool) : Bool :=
  match step s with
  | .next t => p t
  | .fault _ => false
  | .refused _ => false

/-- The registers A, B, C, the run state and the trace are those of a delivered fault. -/
def delivered (a b c : Val) (t : State) : Bool :=
  decide (t.regs.a = a ∧ t.regs.b = b ∧ t.regs.c = c ∧ t.run = .halted ∧ t.out = [.errorReport a b c])

/-- L1 -/
theorem test_endOfMemory :
    step { State.reset with pc := 256 } = .next { State.reset with pc := 256, run := .halted } := rfl
/-- L3: the cells past the top of memory are fetched as 0. -/
theorem test_fetchPads :
    steps (placed (withABCD 0 0 9 0) 254 [1, 2]) (fun t => decide (t.regs.c = 0 ∧ t.pc = 257 ∧ t.run = .running)) = true := by
  decide +kernel
/-- R110 -/
theorem test_halted : step { State.reset with run := .halted } = .fault .halted := rfl
/-- L6 -/
theorem test_halt :
    steps (placed (withABCD 1 2 3 4) 0 [0, 5, 9])
      (fun t => decide (t.run = .halted ∧ t.pc = 3 ∧ t.regs = ⟨1, 2, 3, 4, 0, 0⟩ ∧ t.out = [])) = true := by decide +kernel
/-- L8 -/
theorem test_illegal : steps (placed State.reset 0 [7, 0, 0]) (delivered 2 3 7) = true := by decide +kernel
/-- L11 -/
theorem test_illegal_fraction : steps (placed State.reset 0 [7 / 2, 0, 0]) (delivered 2 3 (7 / 2)) = true := by
  decide +kernel
/-- M2 -/
theorem test_ldw : steps (placed State.reset 0 [1, 5, 16711935]) (fun t => decide (t.regs.f = 16711935 ∧ t.pc = 3)) = true := by
  decide +kernel
/-- M4 -/
theorem test_ldw_badRegister : steps (placed State.reset 0 [1, 6, 5]) (delivered 2 3 1) = true := by decide +kernel
/-- M6 -/
theorem test_mov : steps (placed (withABCD 7 0 0 0) 0 [2, 1, 0]) (fun t => decide (t.regs.b = 7 ∧ t.regs.a = 7)) = true := by
  decide +kernel
/-- M8 -/
theorem test_mov_badRegister : steps (placed (withABCD 7 0 0 0) 0 [2, 1, 9]) (delivered 2 3 2) = true := by decide +kernel
/-- M10 -/
theorem test_str : steps (placed (withABCD 100000 0 0 0) 0 [5, 0, 255]) (fun t => decide (t.cell 255 = 100000)) = true := by
  decide +kernel
/-- M13: the register code is checked before the address. -/
theorem test_str_order : steps (placed (withABCD 42 0 0 0) 0 [5, 7, 300]) (delivered 2 3 5) = true := by decide +kernel
/-- M17 -/
theorem test_ldr : steps (placed State.reset 0 [6, 1, 0]) (fun t => decide (t.regs.b = 6)) = true := by decide +kernel
/-- M18 -/
theorem test_ldr_badAddress : steps (placed State.reset 0 [6, 1, 256]) (delivered 1 3 6) = true := by decide +kernel
/-- A1: no truncation to a byte. -/
theorem test_add : steps (placed (withABCD 250 10 0 0) 0 [3, 0, 1]) (fun t => decide (t.regs.a = 260 ∧ t.regs.b = 10)) = true := by
  decide +kernel
/-- A6: no wrap. -/
theorem test_sub : steps (placed (withABCD 0 1 0 0) 0 [4, 0, 1]) (fun t => decide (t.regs.a = -1)) = true := by decide +kernel
/-- A9 -/
theorem test_xor : steps (placed (withABCD (-1) 5 0 0) 0 [15, 0, 1]) (fun t => decide (t.regs.a = -6)) = true := by
  decide +kernel
/-- A10 -/
theorem test_xor_fraction : steps (placed (withABCD (7 / 2) 1 0 0) 0 [15, 0, 1]) (delivered 1 3 15) = true := by
  decide +kernel
/-- A12 -/
theorem test_and : steps (placed (withABCD (-4) 6 0 0) 0 [16, 0, 1]) (fun t => decide (t.regs.a = 4)) = true := by
  decide +kernel
/-- A27 -/
theorem test_mul : steps (placed (withABCD (7 / 2) 2 0 0) 0 [18, 0, 1]) (fun t => decide (t.regs.a = 7)) = true := by
  decide +kernel
/-- A20 -/
theorem test_div : steps (placed (withABCD (-5) 2 0 0) 0 [19, 0, 1]) (fun t => decide (t.regs.a = -5 / 2)) = true := by
  decide +kernel
/-- S5 -/
theorem test_div_zero :
    steps (placed (withABCD 0 0 0 10) 0 [19, 3, 4]) (fun t => delivered 4 3 19 t && decide (t.regs.d = 10)) = true := by
  decide +kernel
/-- C1 -/
theorem test_bne : steps (placed (withABCD 1 2 0 0) 10 [8, 0, 1, 40]) (fun t => decide (t.pc = 40)) = true := by decide +kernel
/-- C4: a target that is not taken is not checked. -/
theorem test_bne_notTaken :
    steps (placed (withABCD 1 1 0 0) 0 [8, 0, 1, 256]) (fun t => decide (t.pc = 4 ∧ t.run = .running)) = true := by decide +kernel
/-- C6 -/
theorem test_beq : steps (placed State.reset 0 [9, 2, 2, 50]) (fun t => decide (t.pc = 50)) = true := by decide +kernel
/-- C5 -/
theorem test_beq_badTarget : steps (placed (withABCD 1 1 0 0) 0 [9, 0, 1, -3]) (delivered 1 4 9) = true := by decide +kernel
/-- C8: the order is signed. -/
theorem test_blt : steps (placed (withABCD (-1) 0 0 0) 0 [20, 0, 1, 30]) (fun t => decide (t.pc = 30)) = true := by
  decide +kernel
/-- C9 -/
theorem test_blt_equal : steps (placed State.reset 0 [20, 0, 1, 30]) (fun t => decide (t.pc = 4)) = true := by decide +kernel
/-- C12 -/
theorem test_jmp : steps (placed State.reset 0 [17, 255, 0]) (fun t => decide (t.pc = 255)) = true := by decide +kernel
/-- C13 -/
theorem test_jmp_badTarget : steps (placed State.reset 0 [17, 256, 0]) (delivered 1 3 17) = true := by decide +kernel
/-- C15 -/
theorem test_jsr :
    steps (placed State.reset 6 [13, 40, 0]) (fun t => decide (t.pc = 40 ∧ t.sp = 31 ∧ t.slot 31 = 9)) = true := by
  decide +kernel
/-- C17: the target is checked before the stack. -/
theorem test_jsr_order : steps (placed { State.reset with sp := 0 } 0 [13, 400, 0]) (delivered 1 3 13) = true := by
  decide +kernel

/-- One outstanding entry. -/
def oneSlot (v : Val) : State := { State.reset with sp := 31, stack := State.reset.stack.setIfInBounds 31 v }

/-- C22: pads ignored; the popped slot keeps its value. -/
theorem test_ret :
    steps (placed (oneSlot 9) 0 [14, 7, 7]) (fun t => decide (t.pc = 9 ∧ t.sp = 32 ∧ t.slot 31 = 9)) = true := by decide +kernel
/-- C20 -/
theorem test_ret_badTarget :
    steps (placed (oneSlot 300) 0 [14, 0, 0]) (fun t => delivered 1 3 14 t && decide (t.sp = 31)) = true := by decide +kernel
/-- K2 -/
theorem test_push :
    steps (placed { withABCD 0 5 0 0 with sp := 1 } 0 [11, 1, 0]) (fun t => decide (t.sp = 0 ∧ t.slot 0 = 5)) = true := by
  decide +kernel
/-- S2 -/
theorem test_push_full :
    steps (placed { withABCD 77 0 0 0 with sp := 0 } 40 [11, 0, 0]) (fun t => delivered 3 43 11 t && decide (t.sp = 0)) = true := by
  decide +kernel
/-- K5 -/
theorem test_pop :
    steps (placed (oneSlot 7) 0 [12, 1, 0]) (fun t => decide (t.regs.b = 7 ∧ t.sp = 32 ∧ t.slot 31 = 7)) = true := by
  decide +kernel
/-- S4 (c) -/
theorem test_pop_empty : steps (placed State.reset 0 [12, 0, 0]) (delivered 3 3 12) = true := by decide +kernel

/-! ### INT -/

/-- I3 on the row INT itself. -/
theorem test_int : exec (.int 1) (withABCD 260 0 0 0) = .next { withABCD 260 0 0 0 with out := [.printInt 260] } := rfl
/-- I1 -/
theorem test_printChar : steps (placed (withABCD 72 0 0 0) 0 [10, 0, 0]) (fun t => decide (t.out = [.printChar 72])) = true := by
  decide +kernel
/-- I2 -/
theorem test_printChar_fraction : steps (placed (withABCD (7 / 2) 0 0 0) 0 [10, 0, 0]) (delivered 1 3 10) = true := by
  decide +kernel
/-- I4 -/
theorem test_printInt : steps (placed (withABCD (-7) 0 0 0) 0 [10, 1, 0]) (fun t => decide (t.out = [.printInt (-7)])) = true := by
  decide +kernel
/-- I5. The display is active at this iteration's sample, whose answers are scripted: no present, no quit. -/
theorem test_displayInit :
    steps (placed { withABCD 0 320 200 0 with ports := ⟨[], [], [], [], [false], [false], 0⟩ } 0 [10, 0x70, 0])
      (fun t => decide (t.out = [.displayInit 0 320 200] ∧ t.display = some ⟨.pixel, 320, 200⟩)) = true := by decide +kernel
/-- I7 -/
theorem test_displayInit_width : steps (placed (withABCD 1 0 25 0) 0 [10, 0x70, 0]) (delivered 1 3 10) = true := by
  decide +kernel
/-- I10 -/
theorem test_setPixel :
    steps (placed (withDisplay .pixel 320 200 5 319 199) 0 [10, 0x71, 0]) (fun t => decide (t.out = [.setPixel 319 199 5])) = true := by
  decide +kernel
/-- I9 -/
theorem test_setPixel_bounds :
    steps (placed (withDisplay .pixel 320 200 0 320 0) 0 [10, 0x71, 0]) (delivered 1 3 10) = true := by decide +kernel
/-- I13 -/
theorem test_drawChar :
    steps (placed (withDisplay .text 40 25 65 41 16777215) 0 [10, 0x72, 0])
      (fun t => decide (t.out = [.drawChar 41 65 16777215, .present])) = true := by decide +kernel
/-- I15 -/
theorem test_drawChar_clamp :
    steps (placed (withDisplay .text 40 25 65 (-1) 0) 0 [10, 0x72, 0])
      (fun t => decide (t.out = [.drawChar 999 65 0, .present])) = true := by decide +kernel
/-- I19; the set in an order of its own. -/
theorem test_keyPoll :
    steps (placed { State.reset with lastKey := some 97, ports := ⟨[[120, 100]], [], [], [], [], [], 0⟩ } 0 [10, 0xF6, 0])
      (fun t => decide (t.regs.a = 100 ∧ t.regs.b = 1 ∧ t.lastKey = some 100)) = true := by decide +kernel
/-- I18 -/
theorem test_keyPoll_held :
    steps (placed { State.reset with lastKey := some 97, ports := ⟨[[97, 100]], [], [], [], [], [], 0⟩ } 0 [10, 0xF6, 0])
      (fun t => decide (t.regs.a = 97 ∧ t.regs.b = 0 ∧ t.lastKey = some 97)) = true := by decide +kernel
/-- I21 -/
theorem test_blockRead :
    steps (placed { withABCD 1 2 3 0 with ports := ⟨[], [true], [some 90], [], [], [], 0⟩ } 0 [10, 0x80, 0])
      (fun t => decide (t.regs = ⟨1, 2, 3, 0, 90, 0⟩ ∧ t.run = .running)) = true := by decide +kernel
/-- I22: no port is called. -/
theorem test_blockRead_drive : steps (placed (withABCD 12 0 0 0) 0 [10, 0x80, 0]) (delivered 0x81 3 0) = true := by
  decide +kernel
/-- I28 -/
theorem test_blockWrite :
    steps (placed { withABCD 0 0 0 65 with ports := ⟨[], [true], [], [true], [], [], 0⟩ } 0 [10, 0x81, 0])
      (fun t => decide (t.regs = ⟨0, 0, 0, 65, 0, 0⟩ ∧ t.out = [.blockExists 0, .blockWriteByte 0 0 0 65])) = true := by
  decide +kernel
/-- I29 -/
theorem test_blockWrite_fails :
    steps (placed { withABCD 0 0 0 65 with ports := ⟨[], [true], [], [false], [], [], 0⟩ } 0 [10, 0x81, 0])
      (fun t => decide (t.regs = ⟨0x85, 3, 0, 65, 0, 0⟩ ∧ t.run = .halted)) = true := by decide +kernel
/-- I30 -/
theorem test_error :
    steps (placed (withABCD 9 8 7 0) 0 [10, 0xFE, 0]) (fun t => delivered 9 8 7 t && !t.faulted) = true := by decide +kernel
/-- I31 -/
theorem test_intHalt :
    steps (placed (withABCD 9 8 7 0) 0 [10, 0xFF, 0])
      (fun t => decide (t.run = .halted ∧ t.out = [] ∧ t.regs = ⟨9, 8, 7, 0, 0, 0⟩)) = true := by decide +kernel
/-- I33 -/
theorem test_intUnknown : steps (placed State.reset 0 [10, 256, 0]) (delivered 1 3 10) = true := by decide +kernel
/-- Q2: the instruction completes, then the engine halts. -/
theorem test_quit :
    steps (placed { withDisplay .pixel 1 1 0 0 0 with ports := ⟨[], [], [], [], [true], [false], 0⟩ } 0 [1, 0, 5])
      (fun t => decide (t.regs.a = 5 ∧ t.run = .halted ∧ t.out = [])) = true := by decide +kernel
/-- Q1: with no display the signal is not sampled. -/
theorem test_quit_noDisplay :
    steps (placed { State.reset with ports := ⟨[], [], [], [], [true], [], 0⟩ } 0 [1, 0, 5])
      (fun t => decide (t.run = .running ∧ t.ports.quits = [true])) = true := by decide +kernel
/-- A word of the opcode table is what the next step runs. -/
theorem test_withFetchWord : steps (State.reset.withFetchWord 24 0x050001) (fun t => decide (t.regs.a = 5)) = true := by
  decide +kernel

/-! ### Witnesses: for every statement with hypotheses, values that meet them, clause by clause -/

/-- The longest program; one cell more; a cell that is no integer. -/
theorem witness_LoadingGivesResetStateWithProgram :
    (List.replicate 256 (7 : Val)).length ≤ 256 ∧ (∀ v ∈ List.replicate 256 (7 : Val), isInt v = true) ∧
    256 < (List.replicate 257 (7 : Val)).length ∧ (∃ v ∈ [(1 / 2 : Val)], isInt v = false) := by decide +kernel
theorem witness_ResetAndLoadedStatesMeetInvariant :
    Config.default.wf ∧ loadProgram Config.default [] = .next State.reset :=
  ⟨by decide +kernel, rfl⟩
/-- The reset state meets the invariant. -/
theorem reset_inv : State.reset.Inv where
  mem := by decide +kernel
  pc := by decide +kernel
  sp := by decide +kernel
  cfg := by decide +kernel
  display := by decide +kernel
  faulted := by decide +kernel
theorem witness_StepKeepsInvariant :
    State.reset.Inv ∧ step State.reset = .next { State.reset with pc := 3, cycles := 1, run := .halted } :=
  ⟨reset_inv, rfl⟩
theorem witness_DecodeOfEncodeGivesInstructionBack :
    (Instr.blt 5 9 (-1)).ownRow = true ∧ (Instr.illegal 7).ownRow = true ∧ (Instr.intUnknown (1 / 2)).ownRow = true := by
  decide +kernel
/-- PadCellsAreIgnored: the opcode cells of both clauses, with the decoded instructions (L6, C22). -/
theorem witness_PadCellsAreIgnored :
    (opcodeCell .halt = 0x00 ∧ decodeCells ⟨0x00, 5, 9, 1⟩ = .halt) ∧
    (opcodeCell .jmp = 0x11 ∧ decodeCells ⟨0x11, 50, 7, 1⟩ = .jmp 50) := by decide +kernel
theorem witness_RegisterCodesNameRegisters : Config.default.wf ∧ regOf Config.default 5 = some .F := by decide +kernel
theorem witness_XorAndAndActBitwise : twosBit (-1) 70 = 1 ∧ twosBit 5 0 = 1 ∧ twosBit 5 1 = 0 := by decide +kernel
theorem witness_StepRunsDecodedInstruction :
    (placed State.reset 255 [11]).run = .running ∧ (placed State.reset 255 [11]).pc ≤ 255 ∧
    decode ((List.range 4).map fun k => if (placed State.reset 255 [11]).pc + k ≤ 255
        then (placed State.reset 255 [11]).cell ((placed State.reset 255 [11]).pc + k) else 0)
      = .ok (.push 0, [0]) := by decide +kernel
theorem witness_EndOfMemoryHaltsSilently :
    { State.reset with pc := 256 }.run = RunState.running ∧ 256 ≤ { State.reset with pc := 256 }.pc := by decide +kernel
theorem witness_StepStopsOnlyWhenHalted :
    State.reset.run = .running ∧ State.reset.halt.run = .halted := by decide +kernel
theorem witness_HostSampleOnlyWithDisplay :
    State.reset.display = none ∧ (withDisplay .text 1 1 0 0 0).display ≠ none ∧
    (withDisplay .text 1 1 0 0 0).ports.presents = false :: [] ∧
    (withDisplay .text 1 1 0 0 0).ports.quits = false :: [] := by decide +kernel
theorem witness_PortAnswersAreScriptedOrFree :
    (⟨[[1]], [true], [none], [false], [], [], 0⟩ : Ports).keys = [1] :: [] ∧
    (⟨[[1]], [true], [none], [false], [], [], 0⟩ : Ports).devices = true :: [] ∧
    (⟨[[1]], [true], [none], [false], [], [], 0⟩ : Ports).reads = none :: [] ∧
    (⟨[[1]], [true], [none], [false], [], [], 0⟩ : Ports).writes = false :: [] ∧
    State.reset.ports.keys = [] ∧ State.reset.ports.devices = [] ∧ State.reset.ports.reads = [] ∧
    State.reset.ports.writes = [] := by decide +kernel
/-- The reserved opcode and the value one past the table. -/
theorem witness_IllegalOpcodeIsDelivered :
    (¬ ∃ k : Nat, k ≤ 0x14 ∧ k ≠ 0x07 ∧ (0x15 : Val) = (k : Val)) ∧
    ¬ ∃ k : Nat, k ≤ 0x14 ∧ k ≠ 0x07 ∧ (0x07 : Val) = (k : Val) := by
  constructor
  · rintro ⟨k, h1, -, h⟩
    have h' : 0x15 = k := by exact_mod_cast h
    omega
  · rintro ⟨k, -, h2, h⟩
    have h' : 0x07 = k := by exact_mod_cast h
    omega
/-- HaltStopsTheEngine: the last cell of memory. -/
theorem witness_HaltStopsTheEngine :
    (placed State.reset 255 [0]).run = .running ∧ (placed State.reset 255 [0]).pc ≤ 255 ∧
    (placed State.reset 255 [0]).display = none ∧ (placed State.reset 255 [0]).cell (placed State.reset 255 [0]).pc = 0x00 := by
  decide +kernel
/-- LdwLoadsItsImmediate: both clauses, at the last valid code and one past it. -/
theorem witness_LdwLoadsItsImmediate : regOf State.reset.cfg 5 = some .F ∧ regOf State.reset.cfg 6 = none := by
  decide +kernel
/-- MovCopiesARegister, AddSubMulAreExact: two valid codes; a bad first, a bad second code. -/
theorem witness_MovCopiesARegister_AddSubMulAreExact :
    (regOf State.reset.cfg 5 = some .F ∧ regOf State.reset.cfg 0 = some .A) ∧
    (regOf State.reset.cfg 6 = none ∨ regOf State.reset.cfg 0 = none) ∧
    (regOf State.reset.cfg 0 = none ∨ regOf State.reset.cfg 6 = none) := by decide +kernel
/-- StrStoresAtItsAddressOnly, LdrLoadsTheCell: the first and the last cell; one past the last. -/
theorem witness_StrStoresAtItsAddressOnly_LdrLoadsTheCell :
    State.reset.mem.wf ∧ regOf State.reset.cfg 5 = some .F ∧ addrOf 0 = some 0 ∧ addrOf 255 = some 255 ∧
    regOf State.reset.cfg 6 = none ∧ addrOf 256 = none ∧ addrOf (-1) = none := by decide +kernel
theorem witness_XorAndNeedIntegers :
    regOf (withABCD (-1) 5 (7 / 2) 0).cfg 0 = some .A ∧ regOf (withABCD (-1) 5 (7 / 2) 0).cfg 1 = some .B ∧
    regOf (withABCD (-1) 5 (7 / 2) 0).cfg 2 = some .C ∧ (withABCD (-1) 5 (7 / 2) 0).reg .A = ((-1 : Int) : Val) ∧
    (withABCD (-1) 5 (7 / 2) 0).reg .B = ((5 : Int) : Val) ∧ isInt ((withABCD (-1) 5 (7 / 2) 0).reg .C) = false ∧
    regOf (withABCD (-1) 5 (7 / 2) 0).cfg 6 = none := by decide +kernel
theorem witness_DivDividesOrFaults :
    regOf (withABCD 7 2 0 0).cfg 0 = some .A ∧ regOf (withABCD 7 2 0 0).cfg 1 = some .B ∧
    (withABCD 7 2 0 0).reg .B ≠ 0 ∧ (withABCD 7 2 0 0).cfg.div = .exact ∧
    { withABCD 7 2 0 0 with cfg := { Config.default with div := .other } }.cfg.div = DivChoice.other ∧
    (withABCD 7 2 0 0).reg .C = 0 ∧ regOf (withABCD 7 2 0 0).cfg 6 = none := by decide +kernel
/-- The relations on either side of equality; the last cell and the value after it as targets. -/
theorem witness_BranchesCompareTwoRegisters :
    regOf (withABCD (-1) 0 0 0).cfg 0 = some .A ∧ regOf (withABCD (-1) 0 0 0).cfg 1 = some .B ∧
    regOf (withABCD (-1) 0 0 0).cfg 2 = some .C ∧ (withABCD (-1) 0 0 0).reg .A ≠ (withABCD (-1) 0 0 0).reg .B ∧
    (withABCD (-1) 0 0 0).reg .A < (withABCD (-1) 0 0 0).reg .B ∧
    (withABCD (-1) 0 0 0).reg .B = (withABCD (-1) 0 0 0).reg .C ∧
    ¬ (withABCD (-1) 0 0 0).reg .B < (withABCD (-1) 0 0 0).reg .C ∧
    targetOf 255 = some 255 ∧ targetOf 256 = none ∧ regOf (withABCD (-1) 0 0 0).cfg 6 = none := by decide +kernel
theorem witness_JmpGoesToItsTarget : targetOf 0 = some 0 ∧ targetOf 255 = some 255 ∧ targetOf 256 = none := by decide +kernel
/-- The last free slot, and a full stack. -/
theorem witness_JsrPushesTheReturnAddress :
    { State.reset with sp := 1 }.sp ≤ 32 ∧ targetOf 255 = some 255 ∧ { State.reset with sp := 1 }.sp ≠ 0 ∧
    targetOf 256 = none ∧ { State.reset with sp := 0 }.sp = 0 := by decide +kernel
/-- One entry with a valid and with an invalid target, and an empty stack. -/
theorem witness_RetPopsItsTarget :
    (oneSlot 255).sp < 32 ∧ targetOf ((oneSlot 255).slot (oneSlot 255).sp) = some 255 ∧ 32 ≤ State.reset.sp ∧
    (oneSlot 256).sp < 32 ∧ targetOf ((oneSlot 256).slot (oneSlot 256).sp) = none := by decide +kernel
theorem witness_PushStoresBelowSp :
    { State.reset with sp := 1 }.sp ≤ 32 ∧ regOf State.reset.cfg 5 = some .F ∧ { State.reset with sp := 1 }.sp ≠ 0 ∧
    regOf State.reset.cfg 6 = none ∧ { State.reset with sp := 0 }.sp = 0 := by decide +kernel
theorem witness_PopLoadsTheTop :
    regOf (oneSlot 7).cfg 5 = some .F ∧ (oneSlot 7).sp < 32 ∧ regOf (oneSlot 7).cfg 6 = none ∧ 32 ≤ State.reset.sp := by
  decide +kernel
theorem witness_PushesAndPopsBalance :
    { State.reset with sp := 2 }.sp ≤ 32 ∧ [((0 : Val), RegName.A), (5, .F)].length ≤ { State.reset with sp := 2 }.sp ∧
    [(1 : Val), 2].length = [((0 : Val), RegName.A), (5, .F)].length ∧
    (∀ c ∈ [((0 : Val), RegName.A), (5, .F)], regOf State.reset.cfg c.1 = some c.2) ∧
    (∀ d ∈ [(1 : Val), 2], regOf State.reset.cfg d ≠ none) := by decide +kernel
theorem witness_RetReturnsFromJsr :
    { State.reset with sp := 1 }.sp ≤ 32 ∧ { State.reset with sp := 1 }.sp ≠ 0 ∧ State.reset.pc ≤ 255 ∧
    targetOf 40 = some 40 ∧
    exec (.jsr 40) { State.reset with sp := 1 } = .next { State.reset with pc := 40, sp := 0 } :=
  ⟨by decide, by decide, by decide, by decide +kernel, rfl⟩
/-- A code one past a listed one, and one that is no integer. -/
theorem witness_IntSelectsItsService : isListedService 0x100 = false ∧ isListedService (1 / 2) = false := by decide +kernel
theorem witness_PrintServicesEmitA :
    (withABCD 72 0 0 0).regs.a = ((72 : Int) : Val) ∧ isInt (withABCD (7 / 2) 0 0 0).regs.a = false := by decide +kernel
/-- The least sizes in both modes; each check failing alone. -/
theorem witness_DisplayInitConfiguresDisplay :
    ((withABCD 0 1 1 0).regs.a = 0 ∧ (withABCD 1 1 1 0).regs.a = 1 ∧ (withABCD 0 1 1 0).regs.b = ((1 : Int) : Val) ∧
      (withABCD 0 1 1 0).regs.c = ((1 : Int) : Val)) ∧
    ((withABCD 2 1 1 0).regs.a ≠ 0 ∧ (withABCD 2 1 1 0).regs.a ≠ 1) ∧
    isInt (withABCD 0 (3 / 2) 1 0).regs.b = false ∧ isInt (withABCD 0 1 (3 / 2) 0).regs.c = false ∧
    (withABCD 0 0 1 0).regs.b < 1 ∧ (withABCD 0 1 0 0).regs.c < 1 := by decide +kernel
/-- The last pixel; one past it in each direction; the modes without pixels. -/
theorem witness_SetPixelChecksItsBounds :
    ((withDisplay .pixel 320 200 5 319 199).display = some ⟨.pixel, 320, 200⟩ ∧
      (withDisplay .pixel 320 200 5 319 199).regs.a = ((5 : Int) : Val) ∧
      (withDisplay .pixel 320 200 5 319 199).regs.b = ((319 : Int) : Val) ∧
      (withDisplay .pixel 320 200 5 319 199).regs.c = ((199 : Int) : Val)) ∧
    State.reset.display = none ∧ (withDisplay .text 40 25 0 0 0).display = some ⟨.text, 40, 25⟩ ∧
    isInt (withDisplay .pixel 320 200 (1 / 2) 0 0).regs.a = false ∧ (withDisplay .pixel 320 200 0 (-1) 0).regs.b < 0 ∧
    ((320 : Int) : Val) ≤ (withDisplay .pixel 320 200 0 320 0).regs.b ∧
    ((200 : Int) : Val) ≤ (withDisplay .pixel 320 200 0 0 200).regs.c := by decide +kernel
/-- The last cell, one past it, one below the first. -/
theorem witness_DrawCharClampsItsIndex :
    ((withDisplay .text 40 25 65 999 0).display = some ⟨.text, 40, 25⟩ ∧
      (withDisplay .text 40 25 65 999 0).regs.a = ((65 : Int) : Val) ∧
      (withDisplay .text 40 25 65 999 0).regs.b = ((999 : Int) : Val) ∧
      (withDisplay .text 40 25 65 999 0).regs.c = ((0 : Int) : Val)) ∧
    (999 : Int) < nCells Config.default 40 25 ∧ nCells Config.default 40 25 ≤ (1000 : Int) ∧ (-1 : Int) < 0 ∧
    (withDisplay .text 40 25 65 999 0).cfg.nCells = .product ∧
    (withDisplay .pixel 40 25 65 999 0).display = some ⟨.pixel, 40, 25⟩ ∧
    isInt (withDisplay .text 40 25 (1 / 2) 0 0).regs.a = false := by decide +kernel
/-- The empty answer, and one with a least key. -/
theorem witness_KeyPollReportsTheLeastKey :
    (⟨[[]], [], [], [], [], [], 0⟩ : Ports).nextKeys = ([], ⟨[], [], [], [], [], [], 0⟩) ∧
    (⟨[[100, 97]], [], [], [], [], [], 0⟩ : Ports).nextKeys = ([100, 97], ⟨[], [], [], [], [], [], 0⟩) ∧
    97 ∈ [(100 : Int), 97] ∧ ∀ j ∈ [(100 : Int), 97], 97 ≤ j := by decide +kernel
/-- The largest admitted fields, with scripted answers of the block device. -/
def blockState (present : Bool) (read : Option (Fin 256)) (wrote : Bool) : State :=
  { withABCD 9 15 254 0 with ports := ⟨[], [present], [read], [wrote], [], [], 0⟩ }

/-- blockRule: each field one past its range after admitted ones, and an absent device. -/
theorem witness_blockRule :
    isIntIn 0 9 (withABCD 10 15 254 0).regs.a = false ∧
    (isIntIn 0 9 (withABCD 9 16 254 0).regs.a = true ∧ isIntIn 0 15 (withABCD 9 16 254 0).regs.b = false) ∧
    (isIntIn 0 9 (withABCD 9 15 255 0).regs.a = true ∧ isIntIn 0 15 (withABCD 9 15 255 0).regs.b = true ∧
      isIntIn 0 254 (withABCD 9 15 255 0).regs.c = false) ∧
    (isIntIn 0 9 (blockState false none false).regs.a = true ∧ isIntIn 0 15 (blockState false none false).regs.b = true ∧
      isIntIn 0 254 (blockState false none false).regs.c = true ∧
      (blockState false none false).ports.nextExists = (false, ⟨[], [], [none], [false], [], [], 0⟩)) := by decide +kernel
/-- BlockReadValidatesThenReads, BlockWriteValidatesThenWrites: the device present, each answer of the transfer. -/
theorem witness_BlockRead_BlockWrite :
    ((blockState true (some 90) true).regs.a = ((9 : Int) : Val) ∧ (blockState true (some 90) true).regs.b = ((15 : Int) : Val) ∧
      (blockState true (some 90) true).regs.c = ((254 : Int) : Val)) ∧
    (blockState true (some 90) true).ports.nextExists = (true, ⟨[], [], [some 90], [true], [], [], 0⟩) ∧
    (⟨[], [], [some 90], [true], [], [], 0⟩ : Ports).nextRead = (some 90, ⟨[], [], [], [true], [], [], 0⟩) ∧
    (⟨[], [], [some 90], [true], [], [], 0⟩ : Ports).nextWrite = (true, ⟨[], [], [some 90], [], [], [], 0⟩) ∧
    (blockState true none false).ports.nextExists = (true, ⟨[], [], [none], [false], [], [], 0⟩) ∧
    (⟨[], [], [none], [false], [], [], 0⟩ : Ports).nextRead = (none, ⟨[], [], [], [false], [], [], 0⟩) ∧
    (⟨[], [], [none], [false], [], [], 0⟩ : Ports).nextWrite = (false, ⟨[], [], [none], [], [], [], 0⟩) := by decide +kernel
/-- Steps from an unmarked state that deliver a fault (S4 (c)), a block error before any port call (S3), and one after
two calls (I29, at the largest fields). -/
theorem witness_FaultDeliveryIsPrecise :
    (placed State.reset 0 [12, 0, 0]).faulted = false ∧ steps (placed State.reset 0 [12, 0, 0]) (fun t => t.faulted) = true ∧
    (placed (withABCD 12 0 0 0) 0 [10, 0x80, 0]).faulted = false ∧
    steps (placed (withABCD 12 0 0 0) 0 [10, 0x80, 0]) (fun t => t.faulted) = true ∧
    (placed (blockState true none false) 0 [10, 0x81, 0]).faulted = false ∧
    steps (placed (blockState true none false) 0 [10, 0x81, 0])
      (fun t => t.faulted &&
        decide (t.out = [.blockExists 9, .blockWriteByte 9 15 254 0, .errorReport 0x85 3 0])) = true := by decide +kernel
/-- RunEndsInFiveWays, CleanHaltKeepsRegisters: a step that halts without a delivery and with no display. -/
theorem witness_RunEnds_CleanHalt :
    State.reset.faulted = false ∧ State.reset.run = .running ∧
    steps State.reset (fun t => decide (t.cleanHalt ∧ t.display = none)) = true := by decide +kernel
/-- RunEndsInFiveWays: a step that ends the run by the quit signal alone (Q2). -/
theorem witness_RunEndsInFiveWays_quit :
    (placed { withDisplay .pixel 1 1 0 0 0 with ports := ⟨[], [], [], [], [true], [false], 0⟩ } 0 [1, 0, 5]).faulted = false ∧
    (placed { withDisplay .pixel 1 1 0 0 0 with ports := ⟨[], [], [], [], [true], [false], 0⟩ } 0 [1, 0, 5]).run = .running ∧
    quitRaised { withDisplay .pixel 1 1 0 0 0 with ports := ⟨[], [], [], [], [true], [false], 0⟩ } = true ∧
    steps (placed { withDisplay .pixel 1 1 0 0 0 with ports := ⟨[], [], [], [], [true], [false], 0⟩ } 0 [1, 0, 5])
      (fun t => decide (t.run = .halted)) = true := by decide +kernel
/-- OnlyStrWritesMemory: a step after which a cell reads otherwise. -/
theorem witness_OnlyStrWritesMemory :
    (placed (withABCD 42 0 0 0) 0 [5, 0, 1]).mem.wf ∧
    steps (placed (withABCD 42 0 0 0) 0 [5, 0, 1])
      (fun t => decide (t.cell 1 ≠ (placed (withABCD 42 0 0 0) 0 [5, 0, 1]).cell 1)) = true := by decide +kernel
/-- RegistersChangeOnlyAsTheRulesSay: a register changed by a destination, by a delivery, by a service. -/
theorem witness_RegistersChangeOnlyAsTheRulesSay :
    steps (placed State.reset 0 [1, 5, 9]) (fun t => decide (t.reg .F ≠ (placed State.reset 0 [1, 5, 9]).reg .F)) = true ∧
    steps (placed State.reset 0 [12, 0, 0]) (fun t => decide (t.reg .A ≠ (placed State.reset 0 [12, 0, 0]).reg .A)) = true ∧
    steps (placed { State.reset with ports := ⟨[[97]], [], [], [], [], [], 0⟩ } 0 [10, 0xF6, 0])
      (fun t => decide (t.reg .A ≠ 0)) = true := by decide +kernel
/-- PcAdvancesOrTransfers: a BLT taken to the last cell, the same not taken, one to no cell, RET on one entry and on
none, and an instruction fetched from the last cell. -/
theorem witness_PcAdvancesOrTransfers :
    (placed (withABCD (-1) 0 0 0) 0 [20, 0, 1, 255]).pc ≤ 255 ∧
    transferOf (decodeCells ⟨20, 0, 1, 255⟩) (withABCD (-1) 0 0 0) = some 255 ∧
    steps (placed (withABCD (-1) 0 0 0) 0 [20, 0, 1, 255]) (fun t => decide (t.pc = 255)) = true ∧
    transferOf (decodeCells ⟨20, 0, 1, 255⟩) State.reset = none ∧
    transferOf (decodeCells ⟨20, 0, 1, 256⟩) (withABCD (-1) 0 0 0) = none ∧
    transferOf .ret (oneSlot 255) = some 255 ∧ transferOf .ret State.reset = none ∧
    (placed State.reset 255 [11]).pc ≤ 255 := by decide +kernel
/-- StackMovesOnlyByItsInstructions, CyclesCountFetches, TraceGrowsAndMarkStays,
ServiceStateChangesOnlyByItsServices: a step from the last cell of memory, and one from the end of memory. -/
theorem witness_stepRules :
    (placed State.reset 255 [11]).pc ≤ 255 ∧ steps (placed State.reset 255 [11]) (fun t => decide (t.sp = 31)) = true ∧
    256 ≤ { State.reset with pc := 256 }.pc ∧ steps { State.reset with pc := 256 } (fun t => decide (t.cycles = 0)) = true := by
  decide +kernel
theorem witness_PortsDoNotReachPlainPrograms :
    (placed (withABCD 72 0 0 0) 0 [10, 0, 0]).display = none ∧
    fetchCell (placed (withABCD 72 0 0 0) 0 [10, 0, 0]) 1 ∈ [0x00, 0x01, 0xFE, 0xFF] ∧
    steps (placed (withABCD 72 0 0 0) 0 [10, 0, 0]) (fun _ => true) = true := by decide +kernel
theorem witness_MemoryReadsBackWhatWasWritten :
    Memory.wf [(3, 7), (255, 1)] ∧ (Memory.write [(3, 7), (255, 1)] 3 0).wf ∧
    Memory.write [(3, 7), (255, 1)] 3 0 = [(255, 1)] := by decide +kernel
theorem witness_DumpShowsTheHaltedState : State.reset.run = .running ∧ State.reset.halt.run = .halted := by decide +kernel

end Sys2Proof.Tests
end

