-- ==== Sys2Proof/Proofs/FetchDecodeLoop.lean ====
section
/-! PROOFS. The family of spec 40_fetch_decode_loop.md: the end-of-memory halt (R101) and HALT (R106). -/

namespace Sys2Proof.Machine

variable {s : State}

/-- R101: a running engine with `pc` past the last cell halts, and the iteration does nothing else. -/
theorem step_end_of_memory (hr : s.run = .running) (hp : memSize ≤ s.pc) : step s = .next s.halt := by
  simp [step, hr, hp]

/-- R105: with no display active the host's sample does nothing. -/
theorem hostSample_no_display (hd : s.display = none) : hostSample s = s := by
  obtain ⟨-, h⟩ | ⟨hne, -⟩ := hostSample_cases s
  · exact h
  · exact absurd hd hne

theorem exec_halt (s : State) : exec .halt s = .next s.halt := rfl

/-- The opcode cell alone makes an instruction HALT, whatever stands in its pads (R72, R75). -/
theorem decodeCells_halt {c : Cells} (h : c.c0 = opcodeCell .halt) : decodeCells c = .halt := by
  simp [decodeCells, h]

/-- HALT is three cells long (R71). -/
theorem instrLen_halt : instrLen (opcodeCell .halt) = 3 := by
  simp [instrLen_opcodeCell]

/-- R106: HALT's opcode cell and two pads of any value are one HALT. -/
theorem isWord_halt (p q : Val) : isWord [opcodeCell .halt, p, q] .halt := fun rest => by
  rw [← decodeCells_halt (c := ⟨opcodeCell .halt, p, q, 0⟩) rfl]
  exact decode_three instrLen_halt p q rest

/-- A step that fetches HALT advances by its three cells, halts, and then samples the host. -/
theorem step_halt (hr : s.run = .running) (hp : s.pc < memSize) (hc : s.cell s.pc = opcodeCell .halt) :
    step s = .next (hostSample (s.advance 3).halt) := by
  have hdecode : decodeCells (fetchCells s) = .halt := decodeCells_halt ((fetchCells_c0 hp).trans hc)
  have hfetched : fetched s = s.advance 3 := by rw [fetched, hc, instrLen_halt]
  apply step_running hr hp
  rw [hdecode, hfetched, exec_halt]

/-- Settles O12, by the loop's first test. -/
theorem endOfMemoryHaltsSilently : Obligations.EndOfMemoryHaltsSilently :=
  fun _ hr hp => step_end_of_memory hr hp

/-- Settles O16: the word by the decoder's table, the step by `step_halt`, whose sample finds no display. -/
theorem haltStopsTheEngine : Obligations.HaltStopsTheEngine := by
  refine ⟨isWord_halt, exec_halt, fun s hr hp hd hc => ?_⟩
  have hin : s.pc < memSize := Nat.lt_succ_of_le hp
  have hsample : hostSample (s.advance 3).halt = (s.advance 3).halt := hostSample_no_display hd
  rw [step_halt hr hin hc, hsample]
  rfl

end Sys2Proof.Machine
end

