-- ==== Sys2Proof/Proofs/DataMovement.lean ====
section
/-! PROOFS. The family of spec 41_data_movement.md: LDW (R120). -/

namespace Sys2Proof.Machine

variable {c0 c1 c2 imm : Val} {i : Instr} {s : State} {r : RegName}

/-- Three cells are the instruction they decode to, when their opcode cell says three (R71). -/
theorem isWord_three (hlen : instrLen c0 = 3) (hdec : decodeCells ⟨c0, c1, c2, 0⟩ = i) : isWord [c0, c1, c2] i :=
  fun rest => hdec ▸ decode_three hlen c1 c2 rest

/-- The opcode cell selects LDW, and both operand cells are taken whole (R72, R73). -/
theorem decodeCells_ldw (c1 imm c3 : Val) : decodeCells ⟨opcodeCell .ldw, c1, imm, c3⟩ = .ldw c1 imm := by
  simp [decodeCells]

/-- LDW is three cells long (R71). -/
theorem instrLen_ldw : instrLen (opcodeCell .ldw) = 3 := by
  simp [instrLen_opcodeCell]

theorem isWord_ldw (c1 imm : Val) : isWord [opcodeCell .ldw, c1, imm] (.ldw c1 imm) :=
  isWord_three instrLen_ldw (decodeCells_ldw c1 imm 0)

/-- LDW is its checked register operand and one register write (R120). -/
theorem exec_ldw (c1 imm : Val) (s : State) :
    exec (.ldw c1 imm) s = .next (withReg (opcodeCell .ldw) c1 s fun i => s.setReg i imm) := rfl

theorem exec_ldw_of_regOf_some (h : regOf s.cfg c1 = some r) : exec (.ldw c1 imm) s = .next (s.setReg r imm) := by
  rw [exec_ldw, withReg_some h]

theorem exec_ldw_of_regOf_none (h : regOf s.cfg c1 = none) :
    exec (.ldw c1 imm) s = .next (afterDelivery 2 (opcodeCell .ldw) s) := by
  rw [exec_ldw, withReg_none h]

/-- Settles O18: the word by the decoder's table, then one clause per outcome of the register code. -/
theorem ldwLoadsItsImmediate : Obligations.LdwLoadsItsImmediate := by
  refine fun c1 imm s => ⟨isWord_ldw c1 imm, fun r hr => ?_, fun hnone => ?_⟩
  · exact ⟨s.setReg r imm, exec_ldw_of_regOf_some hr, setReg_writesReg s r imm⟩
  · exact exec_ldw_of_regOf_none hnone

end Sys2Proof.Machine
end

