-- ==== Sys2Proof/Proofs/ControlTransfer.lean ====
section
/-! PROOFS. The family of spec 43_control_transfer.md: BNE, BEQ and BLT (R141, R142, R143). -/

namespace Sys2Proof.Machine

variable {op c0 c1 c2 c3 t : Val} {ins : Instr} {s : State} {i j : RegName} {cond : Val → Val → Bool} {taken : Prop}

/-! ### The words -/

/-- Four cells are the instruction they decode to, when their opcode cell says four (R71). -/
theorem isWord_four (hlen : instrLen c0 = 4) (hdec : decodeCells ⟨c0, c1, c2, c3⟩ = ins) :
    isWord [c0, c1, c2, c3] ins :=
  fun rest => hdec ▸ decode_four hlen c1 c2 c3 rest

theorem isWord_bne (c1 c2 t : Val) : isWord [opcodeCell .bne, c1, c2, t] (.bne c1 c2 t) :=
  isWord_four (by simp [instrLen_opcodeCell]) (by simp [decodeCells])

theorem isWord_beq (c1 c2 t : Val) : isWord [opcodeCell .beq, c1, c2, t] (.beq c1 c2 t) :=
  isWord_four (by simp [instrLen_opcodeCell]) (by simp [decodeCells])

theorem isWord_blt (c1 c2 t : Val) : isWord [opcodeCell .blt, c1, c2, t] (.blt c1 c2 t) :=
  isWord_four (by simp [instrLen_opcodeCell]) (by simp [decodeCells])

/-! ### The conditions are the relations on numbers (R32) -/

theorem condNe_iff (x y : Val) : condNe x y = true ↔ x ≠ y := decide_eq_true_iff

theorem condEq_iff (x y : Val) : condEq x y = true ↔ x = y := decide_eq_true_iff

theorem condLt_iff (x y : Val) : condLt x y = true ↔ x < y := decide_eq_true_iff

/-! ### The shape of a branch, one lemma per outcome -/

/-- A branch whose condition holds goes to its checked target. -/
theorem branch_taken (hi : regOf s.cfg c1 = some i) (hj : regOf s.cfg c2 = some j)
    (hc : cond (s.reg i) (s.reg j) = true) : branch op cond c1 c2 t s = withTarget op t s fun a => s.jump a := by
  rw [branch, withRegs_some hi hj, if_pos hc]

/-- A branch whose condition fails does nothing, whatever its target. -/
theorem branch_not_taken (hi : regOf s.cfg c1 = some i) (hj : regOf s.cfg c2 = some j)
    (hc : ¬ cond (s.reg i) (s.reg j) = true) : branch op cond c1 c2 t s = s := by
  rw [branch, withRegs_some hi hj, if_neg hc]

/-- A bad register code makes a branch deliver Fault(2), whatever its condition and its target (R74). -/
theorem branch_badReg (h : regOf s.cfg c1 = none ∨ regOf s.cfg c2 = none) :
    branch op cond c1 c2 t s = afterDelivery 2 op s :=
  withRegs_none h

/-- An instruction that means `branch` with two valid codes keeps the rule of branches for what its condition decides. -/
theorem branchRule_of_branch (hexec : exec ins s = .next (branch op cond c1 c2 t s))
    (hi : regOf s.cfg c1 = some i) (hj : regOf s.cfg c2 = some j)
    (hcond : cond (s.reg i) (s.reg j) = true ↔ taken) : branchRule ins op taken t s := by
  unfold branchRule
  refine ⟨fun htaken a ha => ?_, fun htaken hnone => ?_, fun hnot => ?_⟩
  · rw [hexec, branch_taken hi hj (hcond.mpr htaken), withTarget_some ha]
    rfl
  · rw [hexec, branch_taken hi hj (hcond.mpr htaken), withTarget_none hnone]
  · rw [hexec, branch_not_taken hi hj (mt hcond.mp hnot)]

/-- An instruction that means `branch` with a bad code delivers Fault(2). -/
theorem exec_badReg_of_branch (hexec : exec ins s = .next (branch op cond c1 c2 t s))
    (h : regOf s.cfg c1 = none ∨ regOf s.cfg c2 = none) : exec ins s = .next (afterDelivery 2 op s) := by
  rw [hexec, branch_badReg h]

/-! ### The three instructions -/

theorem exec_bne (c1 c2 t : Val) (s : State) :
    exec (.bne c1 c2 t) s = .next (branch (opcodeCell .bne) condNe c1 c2 t s) := rfl

theorem exec_beq (c1 c2 t : Val) (s : State) :
    exec (.beq c1 c2 t) s = .next (branch (opcodeCell .beq) condEq c1 c2 t s) := rfl

theorem exec_blt (c1 c2 t : Val) (s : State) :
    exec (.blt c1 c2 t) s = .next (branch (opcodeCell .blt) condLt c1 c2 t s) := rfl

/-- Settles O25: the words by the decoder's table; with two valid codes each branch by `branchRule_of_branch` and what
its condition decides; with a bad code by `exec_badReg_of_branch`. -/
theorem branchesCompareTwoRegisters : Obligations.BranchesCompareTwoRegisters := by
  refine fun c1 c2 t s => ⟨⟨isWord_bne c1 c2 t, isWord_beq c1 c2 t, isWord_blt c1 c2 t⟩, fun i j hi hj => ?_,
    fun hbad => ?_⟩
  · exact ⟨branchRule_of_branch (exec_bne c1 c2 t s) hi hj (condNe_iff _ _),
      branchRule_of_branch (exec_beq c1 c2 t s) hi hj (condEq_iff _ _),
      branchRule_of_branch (exec_blt c1 c2 t s) hi hj (condLt_iff _ _)⟩
  · exact ⟨exec_badReg_of_branch (exec_bne c1 c2 t s) hbad, exec_badReg_of_branch (exec_beq c1 c2 t s) hbad,
      exec_badReg_of_branch (exec_blt c1 c2 t s) hbad⟩

end Sys2Proof.Machine
end

/-! PROOFS. The encoding, the operands, each instruction and service, and the rules of the whole machine. -/

namespace Sys2Proof.Machine

/-! ## The words of spec 30_encoding.md (R70 to R79) -/

section

variable {op : Val}

/-! ### The words of the three-cell rows: operand cells whole, pads of any value (R72, R73, R75) -/

/-- Three cells that begin with a listed opcode cell are what the decoder's table makes of that opcode. -/
theorem isWord_opcode (o : Opcode) (hlen : instrLen (opcodeCell o) = 3) (c1 c2 : Val) :
    isWord [opcodeCell o, c1, c2] (decodeCells ⟨opcodeCell o, c1, c2, 0⟩) :=
  isWord_three hlen rfl

theorem isWord_mov (c1 c2 : Val) : isWord [opcodeCell .mov, c1, c2] (.mov c1 c2) :=
  isWord_opcode .mov rfl c1 c2

theorem isWord_add (c1 c2 : Val) : isWord [opcodeCell .add, c1, c2] (.add c1 c2) :=
  isWord_opcode .add rfl c1 c2

theorem isWord_sub (c1 c2 : Val) : isWord [opcodeCell .sub, c1, c2] (.sub c1 c2) :=
  isWord_opcode .sub rfl c1 c2

theorem isWord_str (c1 addr : Val) : isWord [opcodeCell .str, c1, addr] (.str c1 addr) :=
  isWord_opcode .str rfl c1 addr

theorem isWord_ldr (c1 addr : Val) : isWord [opcodeCell .ldr, c1, addr] (.ldr c1 addr) :=
  isWord_opcode .ldr rfl c1 addr

theorem isWord_xor (c1 c2 : Val) : isWord [opcodeCell .xor, c1, c2] (.xor c1 c2) :=
  isWord_opcode .xor rfl c1 c2

theorem isWord_and (c1 c2 : Val) : isWord [opcodeCell .and, c1, c2] (.and c1 c2) :=
  isWord_opcode .and rfl c1 c2

theorem isWord_mul (c1 c2 : Val) : isWord [opcodeCell .mul, c1, c2] (.mul c1 c2) :=
  isWord_opcode .mul rfl c1 c2

theorem isWord_div (c1 c2 : Val) : isWord [opcodeCell .div, c1, c2] (.div c1 c2) :=
  isWord_opcode .div rfl c1 c2

theorem isWord_push (c1 pad : Val) : isWord [opcodeCell .push, c1, pad] (.push c1) :=
  isWord_opcode .push rfl c1 pad

theorem isWord_pop (c1 pad : Val) : isWord [opcodeCell .pop, c1, pad] (.pop c1) :=
  isWord_opcode .pop rfl c1 pad

theorem isWord_jsr (t pad : Val) : isWord [opcodeCell .jsr, t, pad] (.jsr t) :=
  isWord_opcode .jsr rfl t pad

theorem isWord_jmp (t pad : Val) : isWord [opcodeCell .jmp, t, pad] (.jmp t) :=
  isWord_opcode .jmp rfl t pad

theorem isWord_ret (p q : Val) : isWord [opcodeCell .ret, p, q] .ret :=
  isWord_opcode .ret rfl p q

/-- An INT word is the row its code selects (R161, R173). -/
theorem isWord_int (code pad : Val) : isWord [opcodeCell .int, code, pad] (serviceRow code) :=
  isWord_three rfl (decodeCells_int rfl)

/-- The INT word of a listed service is that service's row. -/
theorem isWord_service (k : Service) (pad : Val) : isWord [opcodeCell .int, serviceCell k, pad] (rowOfService k) :=
  serviceRow_serviceCell k ▸ isWord_int (serviceCell k) pad

/-! ### Unlisted cells -/

/-- The decoder finds no opcode for a cell that WellFormed calls unlisted (R78). -/
theorem opcodeOf_unlisted (h : isListedOpcode op = false) : opcodeOf op = none :=
  opcodeOf_eq_none.mpr fun o ho => by simp [isListedOpcode_iff.mpr ⟨o, ho⟩] at h

/-- The decoder finds no service for a cell that WellFormed calls unlisted (R173). -/
theorem serviceOf_unlisted (h : isListedService op = false) : serviceOf op = none :=
  serviceOf_eq_none.mpr fun k hk => by simp [isListedService_iff.mpr ⟨k, hk⟩] at h

/-- A cell with no opcode is ILLEGAL, with its value kept (R78, R108). -/
theorem decodeCells_illegal {c : Cells} (h : opcodeOf c.c0 = none) : decodeCells c = .illegal c.c0 := by
  simp [decodeCells, h]

/-- An unlisted opcode cell and two pads of any value are one ILLEGAL (R78, decision D5). -/
theorem isWord_illegal (h : opcodeOf op = none) (p q : Val) : isWord [op, p, q] (.illegal op) :=
  isWord_three (instrLen_unlisted h) (decodeCells_illegal (c := ⟨op, p, q, 0⟩) h)

/-! ### Encoding and decoding -/

/-- The cells of an instruction of its own row are a word: of its row, or, for INT, of its service's. -/
theorem isWord_encode (i : Instr) (h : i.ownRow = true) : isWord (encode i) i.decodedRow := by
  cases i with
  | halt => exact isWord_halt 0 0
  | ldw c v => exact isWord_ldw c v
  | mov c q => exact isWord_mov c q
  | add c q => exact isWord_add c q
  | sub c q => exact isWord_sub c q
  | str c a => exact isWord_str c a
  | ldr c a => exact isWord_ldr c a
  | bne c q t => exact isWord_bne c q t
  | beq c q t => exact isWord_beq c q t
  | int code => exact isWord_int code 0
  | push c => exact isWord_push c 0
  | pop c => exact isWord_pop c 0
  | jsr t => exact isWord_jsr t 0
  | ret => exact isWord_ret 0 0
  | xor c q => exact isWord_xor c q
  | and c q => exact isWord_and c q
  | jmp t => exact isWord_jmp t 0
  | mul c q => exact isWord_mul c q
  | div c q => exact isWord_div c q
  | blt c q t => exact isWord_blt c q t
  | intPrintChar => exact isWord_service .printChar 0
  | intPrintInt => exact isWord_service .printInt 0
  | intDisplayInit => exact isWord_service .displayInit 0
  | intSetPixel => exact isWord_service .setPixel 0
  | intDrawChar => exact isWord_service .drawChar 0
  | intKeyPoll => exact isWord_service .keyPoll 0
  | intBlockRead => exact isWord_service .blockRead 0
  | intBlockWrite => exact isWord_service .blockWrite 0
  | intError => exact isWord_service .error 0
  | intHalt => exact isWord_service .halt 0
  | intUnknown code =>
    have hrow : serviceRow code = .intUnknown code :=
      serviceRow_unlisted (serviceOf_unlisted (by simpa [Instr.ownRow] using h))
    have hword := isWord_int code 0
    rwa [hrow] at hword
  | illegal op =>
    have hop : isListedOpcode op = false := by simpa [Instr.ownRow] using h
    exact isWord_illegal (opcodeOf_unlisted hop) 0 0

/-- Every instruction encodes to as many cells as its operands and its opcode cell (R70, R71). -/
theorem encode_length (i : Instr) (h : i.ownRow = true) : (encode i).length = instrLen i.opcode := by
  cases i with
  | illegal op => exact (Laws.EncodedLength.illegal op h).2
  | _ => rfl

/-- Settles O4: each row's word by the decoder's table, the length by `encode_length`. -/
theorem decodeOfEncodeGivesInstructionBack : Obligations.DecodeOfEncodeGivesInstructionBack :=
  fun i rest h => ⟨isWord_encode i h rest, encode_length i h⟩

/-- The operand cells of a decoded instruction are those of its opcode's format, pads as 0 (R72, R76). -/
theorem decodeCells_operands (c : Cells) :
    (decodeCells c).operands =
      (if c.c0 ∈ [0x08, 0x09, 0x14] then [c.c1, c.c2, c.c3]
       else if c.c0 ∈ [0x01, 0x02, 0x03, 0x04, 0x05, 0x06, 0x0F, 0x10, 0x12, 0x13] then [c.c1, c.c2]
       else if c.c0 ∈ [0x0A, 0x0B, 0x0C, 0x0D, 0x11] then [c.c1, 0]
       else [0, 0]) := by
  obtain ⟨c0, c1, c2, c3⟩ := c
  cases ho : opcodeOf c0 with
  | some o =>
    obtain rfl := opcodeOf_eq_some.mp ho
    cases o with
    | int => rw [decodeCells_int rfl, serviceRow_operands]; rfl
    | _ => rfl
  | none =>
    have unlisted {l : List Val} (hl : ∀ x ∈ l, opcodeOf x ≠ none) : c0 ∉ l := fun hm => hl c0 hm ho
    rw [decodeCells_illegal ho, if_neg (unlisted (by decide)), if_neg (unlisted (by decide)),
      if_neg (unlisted (by decide))]
    rfl

/-- Settles O5: the row, the opcode cell and the operand cells by the decoder's table; the encoding by O4. -/
theorem decodedCellsEncodeBack : Obligations.DecodedCellsEncodeBack := by
  refine fun c => ⟨decodeCells_ownRow c, decodeCells_opcode c, decodeCells_operands c, ?_⟩
  have hword := isWord_encode (decodeCells c) (decodeCells_ownRow c) []
  rwa [List.append_nil, decodeCells_decodedRow] at hword

/-- A decoded instruction is the one its encoding selects: equal opcode and operand cells decode alike. -/
theorem decodeCells_congr {c d : Cells} (hop : c.c0 = d.c0)
    (hops : (decodeCells c).operands = (decodeCells d).operands) : decodeCells c = decodeCells d := by
  have henc : encode (decodeCells c) = encode (decodeCells d) := by simp [encode, hop, hops]
  have hc := isWord_encode (decodeCells c) (decodeCells_ownRow c) []
  have hd := isWord_encode (decodeCells d) (decodeCells_ownRow d) []
  rw [henc, hd] at hc
  simpa using hc.symm

/-- Settles O6: the operand cells of the formats N, I, R and T hold no pad. -/
theorem padCellsAreIgnored : Obligations.PadCellsAreIgnored := by
  refine fun c0 c1 c2 c3 p1 p2 p3 => ⟨fun h => decodeCells_congr rfl ?_, fun h => decodeCells_congr rfl ?_⟩
  · rw [decodeCells_operands, decodeCells_operands]
    rcases h with rfl | rfl <;> rfl
  · rw [decodeCells_operands, decodeCells_operands]
    rcases h with rfl | rfl | rfl | rfl | rfl <;> rfl

/-- The fourth cell of a three-cell instruction is not looked at (R72). -/
theorem decodeCells_three {c0 : Val} (h : instrLen c0 = 3) (c1 c2 c3 d3 : Val) :
    decodeCells ⟨c0, c1, c2, c3⟩ = decodeCells ⟨c0, c1, c2, d3⟩ := by
  have hnot : c0 ∉ [0x08, 0x09, 0x14] := fun hm => by
    have hfour : ∀ x ∈ [(0x08 : Val), 0x09, 0x14], instrLen x ≠ 3 := by decide
    exact hfour c0 hm h
  refine decodeCells_congr rfl ?_
  rw [decodeCells_operands, decodeCells_operands, if_neg hnot, if_neg hnot]

/-- Settles O7: each word by the lemma of its row, the truncated one by `decode`. -/
theorem sampleWordsDecode : Obligations.SampleWordsDecode :=
  ⟨isWord_halt 0 0 [], isWord_ldw 0 5 [], isWord_add 0 1 [7], isWord_str 0 200 [], isWord_blt 0 1 30 [],
    isWord_service .blockRead 0 [], isWord_encode (.intUnknown 2) (by decide) [], isWord_push 1 0 [],
    isWord_jsr 18 0 [], isWord_encode (.illegal 7) (by decide) [], rfl⟩

/-- A listed opcode cell is one of the numbers 0..0x14 other than 7 (R76). -/
theorem opcodeCell_number (o : Opcode) : ∃ k : Nat, k ≤ 0x14 ∧ k ≠ 0x07 ∧ opcodeCell o = (k : Val) := by
  have hlisted := isListedOpcode_iff.mpr ⟨o, rfl⟩
  simp only [isListedOpcode, Bool.and_eq_true, Bool.not_eq_true', decide_eq_false_iff_not, isIntIn_iff] at hlisted
  obtain ⟨⟨n, hn, h0, h1⟩, h7⟩ := hlisted
  lift n to Nat using h0
  refine ⟨n, by omega, ?_, by exact_mod_cast hn⟩
  rintro rfl
  exact h7 hn

/-- Settles O17: an unlisted opcode cell by `decodeCells_illegal` and `instrLen_unlisted`; its meaning is the
delivery. -/
theorem illegalOpcodeIsDelivered : Obligations.IllegalOpcodeIsDelivered := by
  refine ⟨fun _ _ => rfl, fun c h => ?_⟩
  have hnone : opcodeOf c.c0 = none := opcodeOf_eq_none.mpr fun o ho => h (ho ▸ opcodeCell_number o)
  exact ⟨decodeCells_illegal hnone, instrLen_unlisted hnone⟩

end

/-! ## Operands (spec 20_memory.md, 30_encoding.md, 42_arithmetic_logic.md) -/

section

/-- Settles O9: addresses and targets have one bounds check. -/
theorem addressesAndTargetsAreCells : Obligations.AddressesAndTargetsAreCells := by
  intro v a
  have hcell : natBelow memSize v = some a ↔ v = (a : Val) ∧ a ≤ 255 := by
    rw [natBelow_eq_some]
    exact and_congr_right fun _ => Nat.lt_succ_iff
  exact ⟨hcell, hcell⟩

/-- A code names a register exactly when it is an integer in 0..5, whatever the table (R74). -/
theorem regOf_isSome_iff (cfg : Config) (c : Val) : (∃ r, regOf cfg c = some r) ↔ isIntIn 0 5 c = true := by
  simp only [isIntIn_iff, regOf_eq_some]
  constructor
  · rintro ⟨r, k, hk, rfl, -⟩
    exact ⟨k, by norm_num, by omega, by omega⟩
  · rintro ⟨n, rfl, h0, h5⟩
    lift n to Nat using h0
    exact ⟨_, n, by omega, by norm_num, rfl⟩

/-- The six register names, in the order of the default table. -/
def registerNames : List RegName := [.A, .B, .C, .D, .E, .F]

theorem mem_registerNames (r : RegName) : r ∈ registerNames := by cases r <;> decide

/-- An injective table names every register: six different ones of six. -/
theorem mem_regTable {cfg : Config} (h : cfg.wf) (r : RegName) : r ∈ cfg.regTable.toList := by
  have hsub : cfg.regTable.toList.Subperm registerNames := h.subperm fun q _ => mem_registerNames q
  have hlen : registerNames.length ≤ cfg.regTable.toList.length := by rw [Vector.length_toList]; exact le_refl 6
  exact (hsub.perm_of_length_le hlen).mem_iff.mpr (mem_registerNames r)

/-- An injective table names every register by exactly one code (decision D3). -/
theorem regOf_bijective {cfg : Config} (h : cfg.wf) (r : RegName) :
    ∃ c, regOf cfg c = some r ∧ ∀ c', regOf cfg c' = some r → c' = c := by
  obtain ⟨k, hk, hr⟩ := List.getElem_of_mem (mem_regTable h r)
  have hk6 : k < 6 := by simpa using hk
  refine ⟨k, regOf_eq_some.mpr ⟨k, hk6, rfl, by simpa using hr⟩, fun c' hc' => ?_⟩
  obtain ⟨j, hj6, rfl, hj⟩ := regOf_eq_some.mp hc'
  have hjk : j = k := (h.getElem_inj_iff (hi := by simpa using hj6) (hj := hk)).mp (by rw [hr]; simpa using hj)
  rw [hjk]

/-- Settles O8: the range by the table's size, the default names by evaluation, the bijection by counting. -/
theorem registerCodesNameRegisters : Obligations.RegisterCodesNameRegisters :=
  ⟨regOf_isSome_iff, by decide, fun _ r h => regOf_bijective h r⟩

end

/-! ### The infinite two's complement (R131) -/

section

/-- The rule's bit is the library's bit of an integer. -/
theorem twosBit_eq (z : Int) (k : Nat) : twosBit z k = (z.testBit k).toNat := by
  cases z with
  | ofNat m => simp [twosBit, Int.testBit, Nat.toNat_testBit]
  | negSucc m =>
    have hbit : twosBit (.negSucc m) k = 1 - (m.testBit k).toNat := by simp [twosBit, Nat.toNat_testBit]
    rw [hbit, Int.testBit]
    cases m.testBit k <;> rfl

/-- `m` less the bits it shares with `n` has the bits of `m` that `n` lacks. -/
theorem testBit_sub_and (m n k : Nat) : (m - (m &&& n)).testBit k = (m.testBit k && !n.testBit k) := by
  induction k generalizing m n with
  | zero =>
    have hle : m &&& n ≤ m := Nat.and_le_left
    have hbit := @Nat.and_mod_two_eq_one m n
    simp only [Nat.testBit_zero, ← decide_not, ← Bool.decide_and, decide_eq_decide]
    omega
  | succ k ih =>
    have hle : m &&& n ≤ m := Nat.and_le_left
    have hbit := @Nat.and_mod_two_eq_one m n
    have hhalf : (m - (m &&& n)) / 2 = m / 2 - (m / 2 &&& n / 2) := by
      rw [← Nat.and_div_two]
      omega
    rw [Nat.testBit_succ, hhalf, ih, ← Nat.testBit_succ, ← Nat.testBit_succ]

theorem sub_and_eq_ldiff (m n : Nat) : m - (m &&& n) = Nat.ldiff m n :=
  Nat.eq_of_testBit_eq fun k => by rw [testBit_sub_and, Nat.testBit_ldiff]

/-- The model's `xor` is the library's. -/
theorem xorInt_eq (m n : Int) : xorInt m n = Int.xor m n := by cases m <;> cases n <;> rfl

/-- The model's `and` is the library's. -/
theorem andInt_eq (m n : Int) : andInt m n = Int.land m n := by
  cases m with
  | ofNat m =>
    cases n with
    | ofNat n => rfl
    | negSucc n => exact congrArg Int.ofNat (sub_and_eq_ldiff m n)
  | negSucc m =>
    cases n with
    | ofNat n => exact congrArg Int.ofNat (by rw [Nat.and_comm, sub_and_eq_ldiff])
    | negSucc n => rfl

/-- Above its own value, a natural number has no bit set. -/
theorem testBit_of_le {m k : Nat} (h : m ≤ k) : m.testBit k = false :=
  Nat.testBit_eq_false_of_lt (h.trans_lt Nat.lt_two_pow_self)

/-- The bits determine the integer. -/
theorem int_eq_of_testBit_eq {m n : Int} (h : ∀ k, m.testBit k = n.testBit k) : m = n := by
  cases m with
  | ofNat m =>
    cases n with
    | ofNat n => exact congrArg Int.ofNat (Nat.eq_of_testBit_eq h)
    | negSucc n =>
      have hsign := h (max m n)
      simp [Int.testBit, testBit_of_le] at hsign
  | negSucc m =>
    cases n with
    | ofNat n =>
      have hsign := h (max m n)
      simp [Int.testBit, testBit_of_le] at hsign
    | negSucc n =>
      refine congrArg Int.negSucc (Nat.eq_of_testBit_eq fun k => ?_)
      simpa [Int.testBit] using h k

/-- Settles O10: the rule's bits are the library's, and so are `xor` and `and`. -/
theorem xorAndAndActBitwise : Obligations.XorAndAndActBitwise := by
  refine ⟨fun m n k => ?_, fun m n h => int_eq_of_testBit_eq fun k => ?_⟩
  · simp only [twosBit_eq, xorInt_eq, andInt_eq, Int.testBit_lxor, Int.testBit_land]
    cases m.testBit k <;> cases n.testBit k <;> decide
  · have hk := h k
    rw [twosBit_eq, twosBit_eq] at hk
    revert hk
    cases m.testBit k <;> cases n.testBit k <;> decide

end

/-! ## Data movement, arithmetic and logic (spec 41_data_movement.md, 42_arithmetic_logic.md) -/

section

variable {c1 c2 addr op : Val} {s : State} {i j r : RegName}

theorem exec_mov (c1 c2 : Val) (s : State) :
    exec (.mov c1 c2) s = .next (withRegs (opcodeCell .mov) c1 c2 s fun i j => s.setReg i (s.reg j)) := rfl

/-- Settles O19, by the two outcomes of the checked register operands. -/
theorem movCopiesARegister : Obligations.MovCopiesARegister := by
  refine fun c1 c2 s => ⟨isWord_mov c1 c2, fun i j hi hj => ?_, fun hbad => ?_⟩
  · exact ⟨_, by rw [exec_mov, withRegs_some hi hj], setReg_writesReg s i _⟩
  · rw [exec_mov, withRegs_none hbad]; rfl

theorem exec_str (c1 addr : Val) (s : State) :
    exec (.str c1 addr) s = .next (withReg (opcodeCell .str) c1 s fun i =>
      withAddr (opcodeCell .str) addr s fun a => s.setCell a (s.reg i)) := rfl

theorem setCell_cell_same (h : s.mem.wf) (a : Nat) (v : Val) : (s.setCell a v).cell a = v :=
  Memory.read_write_same h.1 a v

theorem setCell_cell_other (s : State) {a b : Nat} (v : Val) (h : b ≠ a) : (s.setCell a v).cell b = s.cell b :=
  Memory.read_write_other s.mem v h

/-- The fetch reads a cell of memory as it is (R102). -/
theorem fetchCell_of_lt {a : Nat} (h : a < memSize) : fetchCell s a = s.cell a := by simp [fetchCell, h]

/-- Settles O20: the store by the laws of memory, the faults by the checked operands in their order. -/
theorem strStoresAtItsAddressOnly : Obligations.StrStoresAtItsAddressOnly := by
  refine fun c1 addr s hwf => ⟨isWord_str c1 addr, fun r a hr ha => ?_, fun hbad => ?_, fun r hr hbad => ?_⟩
  · have hsame := setCell_cell_same hwf a (s.reg r)
    refine ⟨s.setCell a (s.reg r), by rw [exec_str, withReg_some hr, withAddr_some ha], hsame,
      fun b => setCell_cell_other s _, ?_, Memory.write_wf hwf (addrOf_lt ha) _, rfl⟩
    rw [fetchCell_of_lt (addrOf_lt ha), hsame]
  · rw [exec_str, withReg_none hbad]; rfl
  · rw [exec_str, withReg_some hr, withAddr_none hbad]; rfl

theorem exec_ldr (c1 addr : Val) (s : State) :
    exec (.ldr c1 addr) s = .next (withReg (opcodeCell .ldr) c1 s fun i =>
      withAddr (opcodeCell .ldr) addr s fun a => s.setReg i (s.cell a)) := rfl

/-- Settles O21, by the outcomes of the checked operands in their order. -/
theorem ldrLoadsTheCell : Obligations.LdrLoadsTheCell := by
  refine fun c1 addr s => ⟨isWord_ldr c1 addr, fun r a hr ha => ?_, fun hbad => ?_, fun r hr hbad => ?_⟩
  · exact ⟨_, by rw [exec_ldr, withReg_some hr, withAddr_some ha], setReg_writesReg s r _⟩
  · rw [exec_ldr, withReg_none hbad]; rfl
  · rw [exec_ldr, withReg_some hr, withAddr_none hbad]; rfl

/-- Settles O22: all three are `arith`, with two valid codes or a bad one. -/
theorem addSubMulAreExact : Obligations.AddSubMulAreExact := by
  refine fun c1 c2 s => ⟨⟨isWord_add c1 c2, isWord_sub c1 c2, isWord_mul c1 c2⟩, fun i j hi hj => ?_, fun hbad => ?_⟩
  · exact ⟨⟨_, rfl, arith_writesReg (fun x y => x + y) hi hj⟩, ⟨_, rfl, arith_writesReg (fun x y => x - y) hi hj⟩,
      ⟨_, rfl, arith_writesReg (fun x y => x * y) hi hj⟩⟩
  · exact ⟨congrArg _ (withRegs_none hbad), congrArg _ (withRegs_none hbad), congrArg _ (withRegs_none hbad)⟩

/-- Settles O23: both are `bitwise`, on two integers, on a value that is none, or with a bad code. -/
theorem xorAndNeedIntegers : Obligations.XorAndNeedIntegers := by
  refine fun c1 c2 s => ⟨⟨isWord_xor c1 c2, isWord_and c1 c2⟩, fun i j hi hj => ⟨fun m n hm hn => ?_, fun hno => ?_⟩,
    fun hbad => ?_⟩
  · exact ⟨⟨_, rfl, bitwise_writesReg xorInt hi hj hm hn⟩, ⟨_, rfl, bitwise_writesReg andInt hi hj hm hn⟩⟩
  · exact ⟨congrArg _ (bitwise_notInt xorInt hi hj hno), congrArg _ (bitwise_notInt andInt hi hj hno)⟩
  · exact ⟨congrArg _ (withRegs_none hbad), congrArg _ (withRegs_none hbad)⟩

theorem exec_div (c1 c2 : Val) (s : State) :
    exec (.div c1 c2) s = .next (withRegs (opcodeCell .div) c1 c2 s fun i j =>
      if s.reg j = 0 then raiseFault .division (opcodeCell .div) s
      else s.setReg i (divResult s.cfg (s.reg i) (s.reg j))) := rfl

/-- DIV by a divisor other than 0 writes `DivResult` of the operands. -/
theorem exec_div_of_ne_zero (hi : regOf s.cfg c1 = some i) (hj : regOf s.cfg c2 = some j) (h : s.reg j ≠ 0) :
    exec (.div c1 c2) s = .next (s.setReg i (divResult s.cfg (s.reg i) (s.reg j))) := by
  rw [exec_div, withRegs_some hi hj, if_neg h]

/-- Settles O24: each choice of `DivResult`, the zero divisor, the bad code. -/
theorem divDividesOrFaults : Obligations.DivDividesOrFaults := by
  refine fun c1 c2 s => ⟨isWord_div c1 c2, fun i j hi hj => ⟨fun h0 hdiv => ?_, fun h0 hdiv => ?_, fun h0 => ?_⟩,
    fun hbad => ?_⟩
  · have hval : divResult s.cfg (s.reg i) (s.reg j) = s.reg i / s.reg j := by simp [divResult, hdiv]
    exact ⟨_, hval ▸ exec_div_of_ne_zero hi hj h0, setReg_writesReg s i _⟩
  · have hval : divResult s.cfg (s.reg i) (s.reg j) = Config.freeDivResult (s.reg i) (s.reg j) := by
      simp [divResult, hdiv]
    exact ⟨_, hval ▸ exec_div_of_ne_zero hi hj h0, setReg_writesReg s i _⟩
  · rw [exec_div, withRegs_some hi hj, if_pos h0]; rfl
  · rw [exec_div, withRegs_none hbad]; rfl

end

/-! ## JMP, JSR, RET (spec 43_control_transfer.md) -/

section

variable {t : Val} {s : State} {a : Nat}

theorem exec_jmp (t : Val) (s : State) :
    exec (.jmp t) s = .next (withTarget (opcodeCell .jmp) t s fun a => s.jump a) := rfl

/-- Settles O26, by the two outcomes of the checked target. -/
theorem jmpGoesToItsTarget : Obligations.JmpGoesToItsTarget := by
  refine fun t s => ⟨isWord_jmp t, fun a ha => ?_, fun hbad => ?_⟩
  · rw [exec_jmp, withTarget_some ha]; rfl
  · rw [exec_jmp, withTarget_none hbad]; rfl

theorem exec_jsr (t : Val) (s : State) :
    exec (.jsr t) s = .next (withTarget (opcodeCell .jsr) t s fun a =>
      if s.sp = 0 then raiseFault .stack (opcodeCell .jsr) s else (s.push (s.pc : Val)).jump a) := rfl

theorem exec_jsr_call (ha : targetOf t = some a) (hsp : s.sp ≠ 0) :
    exec (.jsr t) s = .next ((s.push (s.pc : Val)).jump a) := by
  rw [exec_jsr, withTarget_some ha, if_neg hsp]

theorem exec_jsr_full (ha : targetOf t = some a) (hsp : s.sp = 0) :
    exec (.jsr t) s = .next (afterDelivery 3 (opcodeCell .jsr) s) := by
  rw [exec_jsr, withTarget_some ha, if_pos hsp]; rfl

theorem exec_jsr_badTarget (ha : targetOf t = none) :
    exec (.jsr t) s = .next (afterDelivery 1 (opcodeCell .jsr) s) := by
  rw [exec_jsr, withTarget_none ha]

theorem push_slot_same (h : s.sp ≤ 32) (v : Val) : (s.push v).slot (s.sp - 1) = v := by
  rw [push_slot s v _ h, if_pos rfl]

theorem push_slot_other (s : State) (v : Val) {k : Nat} (h : k ≠ s.sp - 1) : (s.push v).slot k = s.slot k := by
  simp [State.slot, Ne.symm h]

/-- Settles O27: the push and the jump, or the faults in their order. -/
theorem jsrPushesTheReturnAddress : Obligations.JsrPushesTheReturnAddress := by
  refine fun t s hle => ⟨isWord_jsr t, fun a ha hsp => ?_, exec_jsr_badTarget, fun a => exec_jsr_full⟩
  exact ⟨_, exec_jsr_call ha hsp, rfl, rfl, push_slot_same hle _, fun k => push_slot_other s _, rfl⟩

theorem exec_ret (s : State) :
    exec .ret s = .next (if stackSize ≤ s.sp then raiseFault .stack (opcodeCell .ret) s
      else withTarget (opcodeCell .ret) (s.slot s.sp) s fun a => s.pop.jump a) := rfl

theorem exec_ret_empty (hsp : stackSize ≤ s.sp) : exec .ret s = .next (afterDelivery 3 (opcodeCell .ret) s) := by
  rw [exec_ret, if_pos hsp]; rfl

theorem exec_ret_valid (hsp : s.sp < stackSize) (ha : targetOf (s.slot s.sp) = some a) :
    exec .ret s = .next (s.pop.jump a) := by
  rw [exec_ret, if_neg (Nat.not_le.mpr hsp), withTarget_some ha]

theorem exec_ret_badTarget (hsp : s.sp < stackSize) (ha : targetOf (s.slot s.sp) = none) :
    exec .ret s = .next (afterDelivery 1 (opcodeCell .ret) s) := by
  rw [exec_ret, if_neg (Nat.not_le.mpr hsp), withTarget_none ha]

/-- Settles O28: one lemma per outcome of RET. -/
theorem retPopsItsTarget : Obligations.RetPopsItsTarget :=
  fun _ => ⟨isWord_ret, fun _ => exec_ret_valid, exec_ret_empty, exec_ret_badTarget⟩

/-- An address of a memory cell, as a value, is a valid target (R140). -/
theorem targetOf_natCast (h : a < memSize) : targetOf (a : Val) = some a := natBelow_eq_some.mpr ⟨rfl, h⟩

/-- Settles O32: RET finds the advanced pc that JSR pushed, and pops it. -/
theorem retReturnsFromJsr : Obligations.RetReturnsFromJsr := by
  intro t a s v hle hsp hpc ha hjsr
  obtain rfl := Host.Outcome.next.inj ((exec_jsr_call ha hsp).symm.trans hjsr)
  set v := ((s.push (s.pc : Val)).jump a).advance 3
  have hvsp : v.sp = s.sp - 1 := rfl
  have htop : v.slot v.sp = (s.pc : Val) := push_slot_same hle _
  have htarget : targetOf (v.slot v.sp) = some s.pc := by
    rw [htop, targetOf_natCast (Nat.lt_succ_of_le hpc)]
  refine ⟨_, exec_ret_valid (show v.sp < 32 by omega) htarget, rfl, ?_, rfl, rfl, rfl, fun k hk => ?_⟩
  · rw [jump_sp, pop_sp]
    omega
  · exact push_slot_other s _ (by omega)

end

/-! ## PUSH and POP (spec 44_stack.md) -/

section

variable {c1 : Val} {s : State} {r : RegName}

theorem exec_push (c1 : Val) (s : State) :
    exec (.push c1) s = .next (withReg (opcodeCell .push) c1 s fun i =>
      if s.sp = 0 then raiseFault .stack (opcodeCell .push) s else s.push (s.reg i)) := rfl

theorem exec_push_free (hr : regOf s.cfg c1 = some r) (hsp : s.sp ≠ 0) :
    exec (.push c1) s = .next (s.push (s.reg r)) := by
  rw [exec_push, withReg_some hr, if_neg hsp]

/-- Settles O29: the push, or the faults in their order. -/
theorem pushStoresBelowSp : Obligations.PushStoresBelowSp := by
  refine fun c1 s hle => ⟨isWord_push c1, fun r hr hsp => ?_, fun hbad => ?_, fun r hr hsp => ?_⟩
  · exact ⟨_, exec_push_free hr hsp, rfl, push_slot_same hle _, fun k => push_slot_other s _, rfl⟩
  · rw [exec_push, withReg_none hbad]; rfl
  · rw [exec_push, withReg_some hr, if_pos hsp]; rfl

theorem exec_pop (c1 : Val) (s : State) :
    exec (.pop c1) s = .next (withReg (opcodeCell .pop) c1 s fun i =>
      if stackSize ≤ s.sp then raiseFault .stack (opcodeCell .pop) s else s.pop.setReg i (s.slot s.sp)) := rfl

theorem exec_pop_empty (hr : regOf s.cfg c1 = some r) (hsp : stackSize ≤ s.sp) :
    exec (.pop c1) s = .next (afterDelivery 3 (opcodeCell .pop) s) := by
  rw [exec_pop, withReg_some hr, if_pos hsp]; rfl

theorem exec_pop_entry (hr : regOf s.cfg c1 = some r) (hsp : s.sp < stackSize) :
    exec (.pop c1) s = .next (s.pop.setReg r (s.slot s.sp)) := by
  rw [exec_pop, withReg_some hr, if_neg (Nat.not_le.mpr hsp)]

/-- Settles O30: the pop, or the faults in their order. -/
theorem popLoadsTheTop : Obligations.PopLoadsTheTop := by
  refine fun c1 s => ⟨isWord_pop c1, fun r hr hsp => ?_, fun hbad => ?_, fun r => exec_pop_empty⟩
  · exact ⟨_, exec_pop_entry hr hsp, setReg_reg_same s.pop r _, fun q hq => setReg_reg_other s.pop _ hq, rfl⟩
  · rw [exec_pop, withReg_none hbad]; rfl

theorem execAll_cons {i : Instr} {is : List Instr} {t : State} (h : exec i s = .next t) :
    execAll (i :: is) s = execAll is t := by
  simp [execAll, h]

/-- PUSHes with valid codes and free slots lay the registers' values down from `sp`, the last on top (R154 (2)). -/
theorem execAll_push (cs : List (Val × RegName)) (s : State) (hle : s.sp ≤ 32) (hfree : cs.length ≤ s.sp)
    (hcs : ∀ c ∈ cs, regOf s.cfg c.1 = some c.2) :
    ∃ t, execAll (cs.map fun c => .push c.1) s = some t ∧ t.sp + cs.length = s.sp ∧
      (∀ k, (h : k < cs.length) → t.slot (s.sp - 1 - k) = s.reg cs[k].2) ∧ (∀ k, s.sp ≤ k → t.slot k = s.slot k) ∧
      t = { s with sp := t.sp, stack := t.stack } := by
  induction cs generalizing s with
  | nil => exact ⟨s, rfl, rfl, fun k h => absurd h (Nat.not_lt_zero k), fun k _ => rfl, rfl⟩
  | cons c cs ih =>
    obtain ⟨hc, hrest⟩ := List.forall_mem_cons.mp hcs
    rw [List.length_cons] at hfree
    set v := s.push (s.reg c.2)
    have hvsp : v.sp = s.sp - 1 := rfl
    obtain ⟨t, hexec, hsp, hnew, hold, hframe⟩ := ih v (by omega) (by omega) hrest
    refine ⟨t, ?_, ?_, fun k hk => ?_, fun k hk => ?_, ?_⟩
    · rw [List.map_cons, execAll_cons (exec_push_free hc (by omega)), hexec]
    · rw [List.length_cons]; omega
    · cases k with
      | zero =>
        rw [hold _ (by omega)]
        exact push_slot_same hle _
      | succ k =>
        have hk' : k < cs.length := by simpa using hk
        rw [show s.sp - 1 - (k + 1) = v.sp - 1 - k by omega, hnew k hk']
        rfl
    · rw [hold k (by omega)]
      exact push_slot_other s _ (by omega)
    · rw [hframe]; rfl

/-- As many POPs with valid codes as the stack holds entries meet no fault and change `sp` and registers only
(R154 (3)). -/
theorem execAll_pop (ds : List Val) (s : State) (hentries : s.sp + ds.length ≤ 32)
    (hds : ∀ d ∈ ds, regOf s.cfg d ≠ none) :
    ∃ u, execAll (ds.map .pop) s = some u ∧ u.sp = s.sp + ds.length ∧ u = { s with sp := u.sp, regs := u.regs } := by
  induction ds generalizing s with
  | nil => exact ⟨s, rfl, rfl, rfl⟩
  | cons d ds ih =>
    obtain ⟨hd, hrest⟩ := List.forall_mem_cons.mp hds
    obtain ⟨r, hr⟩ := Option.ne_none_iff_exists'.mp hd
    rw [List.length_cons] at hentries
    set v := s.pop.setReg r (s.slot s.sp)
    have hvsp : v.sp = s.sp + 1 := rfl
    obtain ⟨u, hexec, hsp, hframe⟩ := ih v (by omega) hrest
    refine ⟨u, ?_, ?_, ?_⟩
    · rw [List.map_cons, execAll_cons (exec_pop_entry hr (show s.sp < 32 by omega)), hexec]
    · rw [List.length_cons]; omega
    · rw [hframe]; rfl

/-- Settles O31: the PUSHes by `execAll_push`, the POPs by `execAll_pop` on the entries these have laid down. -/
theorem pushesAndPopsBalance : Obligations.PushesAndPopsBalance := by
  intro s cs ds hle hfree hlen hcs hds
  obtain ⟨t, hexec, hsp, hnew, hold, hframe⟩ := execAll_push cs s hle hfree hcs
  have hcfg : t.cfg = s.cfg := by rw [hframe]
  obtain ⟨u, hpops, husp, huframe⟩ := execAll_pop ds t (by omega) (by rwa [hcfg])
  exact ⟨t, u, hexec, hsp, hnew, hold, hframe, hpops, by omega, huframe⟩

end

/-! ## Rules of the whole machine, read off `step_effect` -/

section

variable {s t u : State} {i : Instr} {r : RegName}

/-! ### What the sample leaves, what the fetched cells were -/

@[simp] theorem hostSample_reg (s : State) (r : RegName) : (hostSample s).reg r = s.reg r := by simp [State.reg]

@[simp] theorem hostSample_cell (s : State) (a : Nat) : (hostSample s).cell a = s.cell a := by simp [State.cell]

@[simp] theorem hostSample_slot (s : State) (k : Nat) : (hostSample s).slot k = s.slot k := by simp [State.slot]

/-- The sample appends at most one `present` to the trace, and only with a display active. -/
theorem hostSample_out (s : State) :
    ∃ shown : List Event, (hostSample s).out = s.out ++ shown ∧
      (shown = [] ∨ (shown = [.present] ∧ s.display ≠ none)) := by
  obtain ⟨-, h⟩ | ⟨hd, shown, quit, ports, h⟩ := hostSample_cases s
  · exact ⟨[], by rw [h, List.append_nil], .inl rfl⟩
  · refine ⟨if shown then [.present] else [], by rw [h], ?_⟩
    cases shown
    · exact .inl rfl
    · exact .inr ⟨rfl, hd⟩

/-- The sample of a halted engine leaves it halted. -/
theorem hostSample_keeps_halted (h : s.run = .halted) : (hostSample s).run = .halted :=
  (hostSample_halted s).mpr (.inl h)

/-- A STR has its operands in the two cells after its opcode (R72). -/
theorem cells_of_str {c : Cells} {c1 addr : Val} (h : decodeCells c = .str c1 addr) : c.c1 = c1 ∧ c.c2 = addr := by
  have hop : c.c0 = opcodeCell .str := by rw [← decodeCells_opcode c, h]; rfl
  cases c
  subst hop
  exact Instr.str.inj h

/-- A POP has its operand in the cell after its opcode (R72). -/
theorem cells_of_pop {c : Cells} {c1 : Val} (h : decodeCells c = .pop c1) : c.c1 = c1 := by
  have hop : c.c0 = opcodeCell .pop := by rw [← decodeCells_opcode c, h]; rfl
  cases c
  subst hop
  exact Instr.pop.inj h

/-! ### The invariant -/

/-- Advancing past an instruction in memory keeps the invariant: at most four cells on from 255 (R26). -/
theorem fetched_inv (h : s.Inv) (hp : s.pc < memSize) : (fetched s).Inv := by
  have hlen := (instrLen_le (s.cell s.pc)).2
  have hlt : s.pc < 256 := hp
  exact { h with pc := by rw [fetched_pc]; omega }

theorem hostSample_inv (h : s.Inv) : (hostSample s).Inv where
  mem := by simpa using h.mem
  pc := by simpa using h.pc
  sp := by simpa using h.sp
  cfg := by simpa using h.cfg
  display := by simpa using h.display
  faulted := fun hf => hostSample_keeps_halted (h.faulted (by simpa using hf))

theorem afterDelivery_inv (code c : Val) (h : s.Inv) : (afterDelivery code c s).Inv :=
  { h with faulted := fun _ => rfl }

theorem halt_inv (h : s.Inv) : s.halt.Inv := { h with faulted := fun _ => rfl }

/-- A jump to a valid target keeps the invariant (R140). -/
theorem jump_inv {a : Nat} {x : Val} (h : s.Inv) (ha : targetOf x = some a) : (s.jump a).Inv := by
  have hlt : a < 256 := targetOf_lt ha
  exact { h with pc := by rw [jump_pc]; omega }

theorem push_inv (h : s.Inv) (v : Val) : (s.push v).Inv :=
  { h with sp := (Nat.sub_le _ _).trans h.sp }

/-- A pop keeps the invariant where the stack holds an entry (R151). -/
theorem pop_inv (h : s.Inv) (hsp : s.sp < stackSize) : s.pop.Inv := { h with sp := hsp }

/-- Every instruction keeps the invariant. -/
theorem Effect.inv (e : Effect s i u) (h : s.Inv) : u.Inv := by
  cases e with
  | store c addr r a _ _ ha => exact { h with mem := Memory.write_wf h.mem (addrOf_lt ha) _ }
  | jump x a _ ha => exact jump_inv h ha
  | push c r => exact push_inv h _
  | call x a _ ha => exact jump_inv (push_inv h _) ha
  | pop c r _ _ hsp => exact { pop_inv h hsp with }
  | ret a _ hsp ha => exact jump_inv (pop_inv h hsp) ha
  | initDisplay m w k _ hw hk =>
    refine { h with display := fun d hd => ?_ }
    obtain rfl := Option.mem_some.mp hd
    exact ⟨hw, hk⟩
  | blockError k e ports => exact afterDelivery_inv _ _ { h with }
  | fault k => exact afterDelivery_inv _ _ h
  | error => exact halt_inv { h with }
  | halt => exact halt_inv h
  | _ => exact { h with }

/-- Settles O3: the end-of-memory halt, or an advance, an instruction and a sample, each of which keeps the
invariant. -/
theorem stepKeepsInvariant : Obligations.StepKeepsInvariant := by
  intro s t hinv hstep
  obtain ⟨-, ⟨-, rfl⟩ | ⟨hp, u, hu, rfl⟩⟩ := step_effect hstep
  · exact halt_inv hinv
  · exact hostSample_inv (hu.inv (fetched_inv hinv hp))

/-! ### Memory -/

/-- Only STR writes memory. -/
theorem Effect.mem (e : Effect s i u) :
    u.mem = s.mem ∨ ∃ c addr r a, i = .str c addr ∧ regOf s.cfg c = some r ∧ addrOf addr = some a ∧
      u = s.setCell a (s.reg r) := by
  cases e with
  | store c addr r a hi hr ha => exact .inr ⟨c, addr, r, a, hi, hr, ha, rfl⟩
  | _ => exact .inl rfl

/-- Settles O45: the step's one effect on memory is a STR's, at the cell its address operand names. -/
theorem onlyStrWritesMemory : Obligations.OnlyStrWritesMemory := by
  intro s t a hwf hstep hne
  obtain ⟨-, ⟨-, rfl⟩ | ⟨hp, u, hu, rfl⟩⟩ := step_effect hstep
  · exact absurd rfl hne
  rw [hostSample_cell] at hne ⊢
  obtain hmem | ⟨c, addr, r, b, hi, hr, hb, rfl⟩ := hu.mem
  · exact absurd (congrArg (Memory.read · a) hmem) hne
  have hab : a = b := by
    by_contra hab
    exact hne (setCell_cell_other (fetched s) _ hab)
  subst hab
  obtain ⟨hc, haddr⟩ := cells_of_str hi
  refine ⟨cell_pc_of_opcode hp (congrArg Instr.opcode hi), ?_, r, ?_, setCell_cell_same hwf a _⟩
  · rw [← hb, ← haddr]; rfl
  · rw [← hr, ← hc]; rfl

/-! ### Registers -/

/-- A register is changed as a destination, by a delivery, or by a service. -/
theorem Effect.reg (e : Effect s i u) (hne : u.reg r ≠ s.reg r) :
    (∃ c, (destOf i = some c ∨ i = .pop c) ∧ regOf s.cfg c = some r) ∨
    (u.faulted = true ∧ (r = .A ∨ r = .B ∨ r = .C)) ∨
    ∃ k, i.decodedRow = rowOfService k ∧ (r = .A ∨ r = .B ∨ r = .E) := by
  cases e with
  | dest c v q hd hq =>
    obtain rfl : r = q := by
      by_contra hrq
      exact hne (setReg_reg_other s v hrq)
    exact .inl ⟨c, .inl hd, hq⟩
  | pop c q hi hq _ =>
    obtain rfl : r = q := by
      by_contra hrq
      exact hne (setReg_reg_other s.pop _ hrq)
    exact .inl ⟨c, .inr hi, hq⟩
  | fault k =>
    refine .inr (.inl ⟨rfl, ?_⟩)
    cases r <;> simp [State.reg, Regs.get] at hne ⊢
  | blockError k e ports =>
    refine .inr (.inl ⟨rfl, ?_⟩)
    cases r <;> simp [State.reg, Regs.get] at hne ⊢
  | keys a b k ports hi =>
    refine .inr (.inr ⟨.keyPoll, hi, ?_⟩)
    cases r <;> simp [State.reg, Regs.get] at hne ⊢
  | readByte v es ports hi =>
    refine .inr (.inr ⟨.blockRead, hi, .inr (.inr ?_)⟩)
    by_contra hr
    exact hne (setReg_reg_other s v hr)
  | _ => exact absurd rfl hne

/-- Settles O46: the destination operand of the fetched instruction is its first operand cell; a service is an INT. -/
theorem registersChangeOnlyAsTheRulesSay : Obligations.RegistersChangeOnlyAsTheRulesSay := by
  intro s t r hstep hne
  obtain ⟨-, ⟨-, rfl⟩ | ⟨hp, u, hu, rfl⟩⟩ := step_effect hstep
  · exact absurd rfl hne
  rw [hostSample_reg] at hne
  obtain ⟨c, hdest | hpop, hr⟩ | ⟨hf, habc⟩ | ⟨k, hk, habe⟩ := hu.reg hne
  · obtain ⟨rfl, hop⟩ := destOf_decodeCells hdest
    rw [fetchCells_c0 hp] at hop
    have hlisted : ∀ x ∈ [(0x01 : Val), 0x02, 0x03, 0x04, 0x06, 0x0F, 0x10, 0x12, 0x13],
        x ∈ [(0x01 : Val), 0x02, 0x03, 0x04, 0x06, 0x0C, 0x0F, 0x10, 0x12, 0x13] := by decide
    exact .inl ⟨hlisted _ hop, hr⟩
  · obtain rfl := cells_of_pop hpop
    have hop : s.cell s.pc = opcodeCell .pop := cell_pc_of_opcode hp (congrArg Instr.opcode hpop)
    exact .inl ⟨by rw [hop]; decide, hr⟩
  · exact .inr (.inl ⟨by rw [hostSample_faulted]; exact hf, habc⟩)
  · exact .inr (.inr ⟨(cells_pc_of_service hp hk).1, habe⟩)

/-! ### Deliveries -/

/-- An instruction that sets the mark has delivered a fault of its own opcode, or a block error after the calls of its
service. -/
theorem Effect.of_faulted (e : Effect s i u) (h0 : s.faulted = false) (h1 : u.faulted = true) :
    ∃ code c calls ports, u = afterDelivery code c { s with out := s.out ++ calls, ports := ports } ∧
      ((c = i.opcode ∧ (∃ k, code = categoryCode k) ∧ calls = [] ∧ ports = s.ports) ∨
        ∃ k b, (k = .blockRead ∨ k = .blockWrite) ∧ i.decodedRow = rowOfService k ∧ c = 0 ∧ code = blockCodeOf b ∧
          calls = blockCalls (serviceCell k) code s) := by
  cases e with
  | fault k => exact ⟨_, _, [], s.ports, by rw [List.append_nil], .inl ⟨rfl, ⟨k, rfl⟩, rfl, rfl⟩⟩
  | blockError k b ports hk hi => exact ⟨_, _, _, ports, rfl, .inr ⟨k, b, hk, hi, rfl, rfl, rfl⟩⟩
  | _ => exact nomatch h0.symm.trans h1

theorem categoryCode_values (k : Category) :
    categoryCode k = 1 ∨ categoryCode k = 2 ∨ categoryCode k = 3 ∨ categoryCode k = 4 := by
  cases k <;> simp [categoryCode]

theorem blockCodeOf_values (b : BlockCode) :
    blockCodeOf b = 0x81 ∨ blockCodeOf b = 0x82 ∨ blockCodeOf b = 0x83 ∨ blockCodeOf b = 0x84 ∨
      blockCodeOf b = 0x85 := by
  cases b <;> simp [blockCodeOf]

/-- Settles O42: a delivering step is an advance, one delivery (`Effect.of_faulted`) and the sample of a halted
engine. -/
theorem faultDeliveryIsPrecise : Obligations.FaultDeliveryIsPrecise := by
  intro s t h0 hstep h1
  obtain ⟨-, ⟨-, rfl⟩ | ⟨hp, u, hu, rfl⟩⟩ := step_effect hstep
  · exact nomatch h0.symm.trans h1
  rw [hostSample_faulted] at h1
  obtain ⟨code, c, calls, ports, rfl, hkind⟩ := hu.of_faulted h0 h1
  set v := afterDelivery code c { fetched s with out := (fetched s).out ++ calls, ports := ports }
  obtain ⟨shown, hout, hshown⟩ := hostSample_out v
  have hA : (hostSample v).reg .A = code := hostSample_reg v .A
  have hB : (hostSample v).reg .B = (v.pc : Val) := hostSample_reg v .B
  have hC : (hostSample v).reg .C = c := hostSample_reg v .C
  refine ⟨hostSample_pc v, hostSample_cycles v, hostSample_keeps_halted rfl, by rw [hB, hostSample_pc],
    ⟨calls, shown, ?_, ?_, ?_⟩, hostSample_reg v .D, hostSample_reg v .E, hostSample_reg v .F, hostSample_mem v,
    hostSample_sp v, hostSample_stack v, hostSample_display v, hostSample_lastKey v, hostSample_cfg v⟩
  · rw [hA, hB, hC, hout]; rfl
  · rwa [hostSample_display]
  · rw [hA, hC]
    obtain ⟨rfl, ⟨k, rfl⟩, rfl, rfl⟩ | ⟨k, b, hk, hi, rfl, rfl, rfl⟩ := hkind
    · refine .inl ⟨?_, categoryCode_values k, rfl, fun hd => ?_⟩
      · rw [decodeCells_opcode, fetchCells_c0 hp]
      · rw [hostSample_display] at hd
        rw [hostSample_no_display hd]; rfl
    · obtain ⟨hop, hcode⟩ := cells_pc_of_service hp hi
      refine .inr ⟨hop, ?_, rfl, blockCodeOf_values b, by rw [hcode]; rfl⟩
      rw [hcode]
      exact hk.imp (congrArg serviceCell) (congrArg serviceCell)

end

/-! ## Independence of the ports (R111) -/

section

variable {s t u : State} {i : Instr} {op c c1 c2 x v : Val} {p : Ports} {cond : Val → Val → Bool}

/-- The same engine with other answers of the outside. -/
def State.withPorts (s : State) (p : Ports) : State := { s with ports := p }

/-- The services that call a port (R160): the six behind the display, the input and the block device. -/
def portServices : List Service := [.displayInit, .setPixel, .drawChar, .keyPoll, .blockRead, .blockWrite]

/-- An INT that runs a service which calls a port. -/
def callsPort (i : Instr) : Prop := ∃ k ∈ portServices, i.decodedRow = rowOfService k

/-- The four services of R111 that call no port are the other four. -/
theorem serviceCell_of_portService {k : Service} (h : k ∈ portServices) :
    serviceCell k ∉ [(0x00 : Val), 0x01, 0xFE, 0xFF] := by
  revert k
  decide

/-- An instruction that calls no port takes no answer and leaves the display as it was. -/
theorem Effect.callsNoPort (e : Effect s i u) (h : ¬ callsPort i) : u.ports = s.ports ∧ u.display = s.display := by
  cases e with
  | initDisplay m w k hi => exact absurd ⟨.displayInit, by decide, hi⟩ h
  | keys a b k ports hi => exact absurd ⟨.keyPoll, by decide, hi⟩ h
  | readByte v es ports hi => exact absurd ⟨.blockRead, by decide, hi⟩ h
  | wroteByte es ports hi => exact absurd ⟨.blockWrite, by decide, hi⟩ h
  | blockError k b ports hk hi =>
    refine absurd ⟨k, ?_, hi⟩ h
    obtain rfl | rfl := hk <;> decide
  | _ => exact ⟨rfl, rfl⟩

/-! ### The shared operations do not look at the ports -/

theorem withReg_withPorts {go go' : RegName → State} (h : ∀ r, go' r = (go r).withPorts p) :
    withReg op c (s.withPorts p) go' = (withReg op c s go).withPorts p := by
  cases hr : regOf s.cfg c with
  | some r => rw [withReg_some hr, withReg_some (s := s.withPorts p) hr, h]
  | none => rw [withReg_none hr, withReg_none (s := s.withPorts p) hr]; rfl

theorem withRegs_withPorts {go go' : RegName → RegName → State} (h : ∀ r q, go' r q = (go r q).withPorts p) :
    withRegs op c1 c2 (s.withPorts p) go' = (withRegs op c1 c2 s go).withPorts p :=
  withReg_withPorts fun r => withReg_withPorts fun q => h r q

theorem withAddr_withPorts {go go' : Nat → State} (h : ∀ a, go' a = (go a).withPorts p) :
    withAddr op x (s.withPorts p) go' = (withAddr op x s go).withPorts p := by
  cases hx : addrOf x with
  | some a => rw [withAddr_some hx, withAddr_some hx, h]
  | none => rw [withAddr_none hx, withAddr_none hx]; rfl

theorem withTarget_withPorts {go go' : Nat → State} (h : ∀ a, go' a = (go a).withPorts p) :
    withTarget op x (s.withPorts p) go' = (withTarget op x s go).withPorts p := by
  cases hx : targetOf x with
  | some a => rw [withTarget_some hx, withTarget_some hx, h]
  | none => rw [withTarget_none hx, withTarget_none hx]; rfl

theorem withInt_withPorts {go go' : Int → State} (h : ∀ n, go' n = (go n).withPorts p) :
    withInt op v (s.withPorts p) go' = (withInt op v s go).withPorts p := by
  cases hv : isInt v with
  | true =>
    rw [eq_num_of_den ((isInt_iff v).mp hv), withInt_intCast, withInt_intCast, h]
  | false => rw [withInt_none hv, withInt_none hv]; rfl

/-- A choice made alike in both engines. -/
theorem ite_withPorts {q : Prop} [Decidable q] {yes yes' no no' : State} (hyes : yes' = yes.withPorts p)
    (hno : no' = no.withPorts p) : (if q then yes' else no') = (if q then yes else no).withPorts p := by
  rw [hyes, hno, apply_ite (State.withPorts · p)]

theorem arith_withPorts (f : Val → Val → Val) :
    arith op f c1 c2 (s.withPorts p) = (arith op f c1 c2 s).withPorts p :=
  withRegs_withPorts fun _ _ => rfl

theorem bitwise_withPorts (f : Int → Int → Int) :
    bitwise op f c1 c2 (s.withPorts p) = (bitwise op f c1 c2 s).withPorts p :=
  withRegs_withPorts fun _ _ => withInt_withPorts fun _ => withInt_withPorts fun _ => rfl

theorem branch_withPorts : branch op cond c1 c2 x (s.withPorts p) = (branch op cond c1 c2 x s).withPorts p :=
  withRegs_withPorts fun _ _ => ite_withPorts (withTarget_withPorts fun _ => rfl) rfl

/-! ### Execution and step -/

/-- INT means what the row of its service means (R161). -/
theorem exec_int (code : Val) (s : State) : exec (.int code) s = exec (serviceRow code) s := by
  show execInt code s = _
  unfold execInt
  cases hk : serviceOf code with
  | none => rw [serviceRow_unlisted hk]; rfl
  | some k => rw [serviceRow_of_some hk]; cases k <;> rfl

/-- What an instruction leaves, carried over to the engine with other answers. -/
theorem next_withPorts {a b : State} (h : (.next b : Host.Outcome State Fault Refusal) = .next u)
    (hab : a = b.withPorts p) : (.next a : Host.Outcome State Fault Refusal) = .next (u.withPorts p) := by
  rw [hab, Host.Outcome.next.inj h]

/-- A service that calls no port means the same whatever the outside would answer. -/
theorem exec_service_withPorts (k : Service) (hk : k ∉ portServices) (h : exec (rowOfService k) s = .next u) :
    exec (rowOfService k) (s.withPorts p) = .next (u.withPorts p) := by
  cases k with
  | printChar => exact next_withPorts h (withInt_withPorts fun _ => rfl)
  | printInt | error | halt => exact next_withPorts h rfl
  | _ => exact absurd (by decide) hk

/-- An instruction that calls no port means the same whatever the outside would answer. -/
theorem exec_withPorts (hi : ¬ callsPort i) (h : exec i s = .next u) :
    exec i (s.withPorts p) = .next (u.withPorts p) := by
  cases i with
  | int code =>
    rw [exec_int] at h ⊢
    cases hk : serviceOf code with
    | none =>
      rw [serviceRow_unlisted hk] at h ⊢
      exact next_withPorts h rfl
    | some k =>
      have hrow := serviceRow_of_some hk
      rw [hrow] at h ⊢
      exact exec_service_withPorts k (fun hm => hi ⟨k, hm, hrow⟩) h
  | intPrintChar => exact exec_service_withPorts .printChar (by decide) h
  | intPrintInt => exact exec_service_withPorts .printInt (by decide) h
  | intError => exact exec_service_withPorts .error (by decide) h
  | intHalt => exact exec_service_withPorts .halt (by decide) h
  | intDisplayInit => exact absurd ⟨.displayInit, by decide, rfl⟩ hi
  | intSetPixel => exact absurd ⟨.setPixel, by decide, rfl⟩ hi
  | intDrawChar => exact absurd ⟨.drawChar, by decide, rfl⟩ hi
  | intKeyPoll => exact absurd ⟨.keyPoll, by decide, rfl⟩ hi
  | intBlockRead => exact absurd ⟨.blockRead, by decide, rfl⟩ hi
  | intBlockWrite => exact absurd ⟨.blockWrite, by decide, rfl⟩ hi
  | halt | intUnknown | illegal => exact next_withPorts h rfl
  | ldw => exact next_withPorts h (withReg_withPorts fun _ => rfl)
  | mov => exact next_withPorts h (withRegs_withPorts fun _ _ => rfl)
  | add | sub | mul => exact next_withPorts h (arith_withPorts _)
  | xor | and => exact next_withPorts h (bitwise_withPorts _)
  | div => exact next_withPorts h (withRegs_withPorts fun _ _ => ite_withPorts rfl rfl)
  | bne | beq | blt => exact next_withPorts h branch_withPorts
  | jmp => exact next_withPorts h (withTarget_withPorts fun _ => rfl)
  | jsr => exact next_withPorts h (withTarget_withPorts fun _ => ite_withPorts rfl rfl)
  | ret =>
    exact next_withPorts h (ite_withPorts rfl (withTarget_withPorts fun _ => rfl))
  | push | pop => exact next_withPorts h (withReg_withPorts fun _ => ite_withPorts rfl rfl)
  | str | ldr =>
    exact next_withPorts h (withReg_withPorts fun _ => withAddr_withPorts fun _ => rfl)

/-- Settles O51: without a display the step is the execution, which calls no port. -/
theorem portsDoNotReachPlainPrograms : Obligations.PortsDoNotReachPlainPrograms := by
  intro s t p hd hplain hstep
  obtain ⟨hr, ⟨hp, rfl⟩ | ⟨hp, u, hu, rfl⟩⟩ := step_cases hstep
  · exact ⟨hd, rfl, step_end_of_memory (s := s.withPorts p) hr hp⟩
  have hno : ¬ callsPort (decodeCells (fetchCells s)) := by
    rintro ⟨k, hk, hrow⟩
    obtain ⟨hop, hcode⟩ := cells_pc_of_service hp hrow
    exact serviceCell_of_portService hk (hcode ▸ hplain hop)
  obtain ⟨hports, hdisplay⟩ := (exec_effect hu).callsNoPort hno
  have hnone : u.display = none := hdisplay.trans hd
  have hsample : hostSample (u.withPorts p) = u.withPorts p := hostSample_no_display hnone
  rw [hostSample_no_display hnone]
  refine ⟨hnone, hports, ?_⟩
  rw [show ({ s with ports := p } : State) = s.withPorts p from rfl,
    step_running (s := s.withPorts p) hr hp (exec_withPorts (p := p) hno hu), hsample]
  rfl

end

/-! ## How a run ends, the counter, the trace and the service state -/

section

variable {s t u : State} {i : Instr}

/-- An instruction that halts a running engine delivered a fault, or is the error interrupt, HALT or the halt service,
which leave everything else but the trace. -/
theorem Effect.of_halted (e : Effect s i u) (hr : s.run = .running) (hh : u.run = .halted) :
    u.faulted = true ∨ (i.decodedRow = .intError ∧ u = errorInterrupt s) ∨
      ((i = .halt ∨ i.decodedRow = .intHalt) ∧ u = s.halt) := by
  cases e with
  | fault | blockError => exact .inl rfl
  | error hi => exact .inr (.inl ⟨hi, rfl⟩)
  | halt hi => exact .inr (.inr ⟨hi, rfl⟩)
  | _ => exact nomatch hr.symm.trans hh

/-- Settles O43: the executed state is halted, by `Effect.of_halted`, or the sample found the quit signal raised. -/
theorem runEndsInFiveWays : Obligations.RunEndsInFiveWays := by
  intro s t _ hr hstep hh
  obtain ⟨-, ⟨hp, -⟩ | ⟨hp, u, hu, rfl⟩⟩ := step_cases hstep
  · exact .inl hp
  obtain hhalted | ⟨hd, hq⟩ := (hostSample_halted u).mp hh
  · obtain hf | ⟨hi, -⟩ | ⟨hi | hi, -⟩ := (exec_effect hu).of_halted hr hhalted
    · exact .inr (.inr (.inl (by rwa [hostSample_faulted])))
    · obtain ⟨hop, hcode⟩ := cells_pc_of_service (k := .error) hp hi
      exact .inr (.inr (.inr (.inl ⟨hop, .inl hcode⟩)))
    · exact .inr (.inl (cell_pc_of_opcode hp (congrArg Instr.opcode hi)))
    · obtain ⟨hop, hcode⟩ := cells_pc_of_service (k := .halt) hp hi
      exact .inr (.inr (.inr (.inl ⟨hop, .inr hcode⟩)))
  · exact .inr (.inr (.inr (.inr ⟨u, hu, rfl, hd, hq⟩)))

/-- Settles O44: with no display the sample does nothing, and of the ways to halt only a delivery writes a register. -/
theorem cleanHaltKeepsRegisters : Obligations.CleanHaltKeepsRegisters := by
  intro s t hr hstep hclean hd
  obtain ⟨-, ⟨-, rfl⟩ | ⟨-, u, hu, rfl⟩⟩ := step_effect hstep
  · exact ⟨rfl, rfl, rfl, rfl⟩
  rw [hostSample_display] at hd
  rw [hostSample_no_display hd] at hclean ⊢
  obtain hf | ⟨-, rfl⟩ | ⟨-, rfl⟩ := hu.of_halted hr hclean.1
  · exact nomatch hf.symm.trans hclean.2
  · exact ⟨rfl, rfl, rfl, rfl⟩
  · exact ⟨rfl, rfl, rfl, rfl⟩

/-- No instruction counts a cycle of its own: the fetch has counted it. -/
theorem Effect.cycles (e : Effect s i u) : u.cycles = s.cycles := by cases e <;> rfl

/-- Settles O49: the fetch counts one, the instruction and the sample none. -/
theorem cyclesCountFetches : Obligations.CyclesCountFetches := by
  intro s t hstep
  obtain ⟨-, ⟨hp, rfl⟩ | ⟨hp, u, hu, rfl⟩⟩ := step_effect hstep
  · exact ⟨fun hin => absurd hp (Nat.not_le.mpr (Nat.lt_succ_of_le hin)), fun _ => rfl⟩
  · exact ⟨fun _ => by rw [hostSample_cycles, hu.cycles, fetched_cycles], fun hout => absurd hp (Nat.not_lt.mpr hout)⟩

/-- No instruction changes the configuration. -/
theorem Effect.cfg (e : Effect s i u) : u.cfg = s.cfg := by cases e <;> rfl

/-- No instruction clears the mark. -/
theorem Effect.faulted (e : Effect s i u) (h : s.faulted = true) : u.faulted = true := by
  cases e with
  | fault | blockError => rfl
  | _ => exact h

/-- Every instruction appends to the trace, if it touches it at all. -/
theorem Effect.out (e : Effect s i u) : ∃ es, u.out = s.out ++ es := by
  cases e with
  | draw | blockError => exact ⟨_, List.append_assoc ..⟩
  | emit | initDisplay | keys | readByte | wroteByte | error | fault => exact ⟨_, rfl⟩
  | _ => exact ⟨[], (List.append_nil _).symm⟩

/-- Settles O50: an instruction and the sample append to the trace, keep the mark and the configuration. -/
theorem traceGrowsAndMarkStays : Obligations.TraceGrowsAndMarkStays := by
  intro s t hstep
  obtain ⟨-, ⟨-, rfl⟩ | ⟨-, u, hu, rfl⟩⟩ := step_effect hstep
  · exact ⟨⟨[], (List.append_nil _).symm⟩, id, rfl⟩
  obtain ⟨es, hes⟩ := hu.out
  obtain ⟨shown, hshown, -⟩ := hostSample_out u
  refine ⟨⟨es ++ shown, ?_⟩, fun hf => by rw [hostSample_faulted, hu.faulted hf], (hostSample_cfg u).trans hu.cfg⟩
  rw [hshown, hes, fetched_out, List.append_assoc]

/-- Only key-poll changes the remembered key. -/
theorem Effect.lastKey (e : Effect s i u) (h : u.lastKey ≠ s.lastKey) : i.decodedRow = .intKeyPoll := by
  cases e with
  | keys a b k ports hi => exact hi
  | _ => exact absurd rfl h

/-- Only display-init changes the display. -/
theorem Effect.display (e : Effect s i u) (h : u.display ≠ s.display) : i.decodedRow = .intDisplayInit := by
  cases e with
  | initDisplay m w k hi => exact hi
  | _ => exact absurd rfl h

/-- Settles O52: the sample leaves the service state; an instruction that changes it is the INT of its service. -/
theorem serviceStateChangesOnlyByItsServices : Obligations.ServiceStateChangesOnlyByItsServices := by
  intro s t hstep
  obtain ⟨-, ⟨-, rfl⟩ | ⟨hp, u, hu, rfl⟩⟩ := step_effect hstep
  · exact ⟨fun h => absurd rfl h, fun h => absurd rfl h⟩
  rw [hostSample_lastKey, hostSample_display]
  exact ⟨fun h => cells_pc_of_service (k := .keyPoll) hp (hu.lastKey h),
    fun h => cells_pc_of_service (k := .displayInit) hp (hu.display h)⟩

/-! ## The stack pointer and `pc` -/

/-- Only PUSH, JSR, POP and RET move the stack pointer, and only the first two write a slot. -/
theorem Effect.stack (e : Effect s i u) :
    (u.sp = s.sp ∧ u.stack = s.stack) ∨
    ((i.opcode = opcodeCell .push ∨ i.opcode = opcodeCell .jsr) ∧ u.sp + 1 = s.sp ∧
      ∀ k, k ≠ u.sp → u.slot k = s.slot k) ∨
    ((i.opcode = opcodeCell .pop ∨ i.opcode = opcodeCell .ret) ∧ u.sp = s.sp + 1 ∧ u.stack = s.stack) := by
  cases e with
  | push c r hi _ hsp =>
    exact .inr (.inl ⟨.inl (congrArg Instr.opcode hi), Nat.succ_pred hsp, fun k => push_slot_other s _⟩)
  | call x a hi _ hsp =>
    exact .inr (.inl ⟨.inr (congrArg Instr.opcode hi), Nat.succ_pred hsp, fun k => push_slot_other s _⟩)
  | pop c r hi => exact .inr (.inr ⟨.inl (congrArg Instr.opcode hi), rfl, rfl⟩)
  | ret a hi => exact .inr (.inr ⟨.inr (congrArg Instr.opcode hi), rfl, rfl⟩)
  | _ => exact .inl ⟨rfl, rfl⟩

/-- Settles O48: the instruction's effect on the stack, by the opcode cell it was fetched with. -/
theorem stackMovesOnlyByItsInstructions : Obligations.StackMovesOnlyByItsInstructions := by
  intro s t hstep
  obtain ⟨-, ⟨-, rfl⟩ | ⟨hp, u, hu, rfl⟩⟩ := step_effect hstep
  · exact .inl ⟨rfl, rfl⟩
  rw [hostSample_sp, hostSample_stack]
  simp only [hostSample_slot]
  obtain hkept | ⟨hop, hsp, hslots⟩ | ⟨hop, hsp, hstack⟩ := hu.stack
  · exact .inl hkept
  · refine .inr (.inl ⟨?_, hsp, hslots⟩)
    obtain h | h := hop <;> rw [cell_pc_of_opcode hp h] <;> decide
  · refine .inr (.inr ⟨?_, hsp, hstack⟩)
    obtain h | h := hop <;> rw [cell_pc_of_opcode hp h] <;> decide

/-- Only the transfers write `pc`. -/
theorem Effect.pc (e : Effect s i u) (hjump : jumpOf i = none) (hjsr : ∀ x, i ≠ .jsr x) (hret : i ≠ .ret) :
    u.pc = s.pc := by
  cases e with
  | jump x a hi => exact nomatch hjump.symm.trans hi
  | call x a hi => exact absurd hi (hjsr x)
  | ret a hi => exact absurd hi hret
  | _ => rfl

section

variable {op c1 c2 x : Val} {cond : Val → Val → Bool} {taken : Val → Val → Prop} [DecidableRel taken]

/-- A checked target becomes `pc`; an invalid one is delivered in place. -/
theorem withTarget_pc {go : Nat → State} (hgo : ∀ a, (go a).pc = a ∧ (go a).faulted = s.faulted) :
    (withTarget op x s go).pc = (targetOf x).getD s.pc ∧
      ((targetOf x).isSome → (withTarget op x s go).faulted = s.faulted) := by
  cases hx : targetOf x with
  | some a => rw [withTarget_some hx]; exact ⟨(hgo a).1, fun _ => (hgo a).2⟩
  | none => rw [withTarget_none hx]; exact ⟨rfl, nofun⟩

/-- A branch transfers exactly where `branchTo` says, for the relation its condition decides. -/
theorem branch_pc (hcond : ∀ y z, cond y z = true ↔ taken y z) :
    (branch op cond c1 c2 x s).pc = (branchTo taken c1 c2 x s).getD s.pc ∧
      ((branchTo taken c1 c2 x s).isSome → (branch op cond c1 c2 x s).faulted = s.faulted) := by
  cases hi : regOf s.cfg c1 with
  | none => rw [branch_badReg (.inl hi)]; simp [branchTo, hi]
  | some i =>
    cases hj : regOf s.cfg c2 with
    | none => rw [branch_badReg (.inr hj)]; simp [branchTo, hi, hj]
    | some j =>
      by_cases hc : taken (s.reg i) (s.reg j)
      · have hto : branchTo taken c1 c2 x s = targetOf x := by simp [branchTo, hi, hj, hc]
        rw [branch_taken hi hj ((hcond _ _).mpr hc), hto]
        exact withTarget_pc fun a => ⟨rfl, rfl⟩
      · have hto : branchTo taken c1 c2 x s = none := by simp [branchTo, hi, hj, hc]
        rw [branch_not_taken hi hj (mt (hcond _ _).mp hc), hto]
        exact ⟨rfl, nofun⟩

theorem branchTo_lt {a : Nat} (h : branchTo taken c1 c2 x s = some a) : a < memSize := by
  unfold branchTo at h
  split at h
  · split_ifs at h
    exact targetOf_lt h
  · exact nomatch h

end

/-- Every instruction leaves `pc` where `transferOf` says, or as it was, and no transfer delivers a fault (R25). -/
theorem exec_pc (h : exec i s = .next u) :
    u.pc = (transferOf i s).getD s.pc ∧ ((transferOf i s).isSome → u.faulted = s.faulted) := by
  cases i with
  | bne c1 c2 x => exact Host.Outcome.next.inj h ▸ branch_pc condNe_iff
  | beq c1 c2 x => exact Host.Outcome.next.inj h ▸ branch_pc condEq_iff
  | blt c1 c2 x => exact Host.Outcome.next.inj h ▸ branch_pc condLt_iff
  | jmp x => exact Host.Outcome.next.inj h ▸ withTarget_pc fun a => ⟨rfl, rfl⟩
  | jsr x =>
    by_cases hsp : s.sp = 0
    · have hto : transferOf (.jsr x) s = none := if_pos hsp
      rw [hto]
      refine ⟨?_, nofun⟩
      cases ha : targetOf x with
      | some a => exact Host.Outcome.next.inj ((exec_jsr_full ha hsp).symm.trans h) ▸ rfl
      | none => exact Host.Outcome.next.inj ((exec_jsr_badTarget ha).symm.trans h) ▸ rfl
    · have hto : transferOf (.jsr x) s = targetOf x := if_neg hsp
      obtain rfl := Host.Outcome.next.inj h
      simp only [if_neg hsp, hto]
      exact withTarget_pc fun a => ⟨rfl, rfl⟩
  | ret =>
    by_cases hsp : s.sp < stackSize
    · have hto : transferOf .ret s = targetOf (s.slot s.sp) := if_pos hsp
      obtain rfl := Host.Outcome.next.inj h
      rw [if_neg (Nat.not_le.mpr hsp), hto]
      exact withTarget_pc fun a => ⟨rfl, rfl⟩
    · have hto : transferOf .ret s = none := if_neg hsp
      rw [hto, ← Host.Outcome.next.inj ((exec_ret_empty (Nat.le_of_not_lt hsp)).symm.trans h)]
      exact ⟨rfl, nofun⟩
  | _ => exact ⟨(exec_effect h).pc rfl nofun nofun, nofun⟩

/-- A transfer goes to a cell of memory, and its opcode is one of six. -/
theorem transferOf_eq_some {a : Nat} (h : transferOf i s = some a) :
    a < memSize ∧ i.opcode ∈ [0x08, 0x09, 0x14, 0x11, 0x0D, 0x0E] := by
  cases i with
  | bne | beq | blt => exact ⟨branchTo_lt h, by simp [Instr.opcode, opcodeCell]⟩
  | jmp x => exact ⟨targetOf_lt h, by simp [Instr.opcode, opcodeCell]⟩
  | jsr x =>
    simp only [transferOf] at h
    split_ifs at h
    exact ⟨targetOf_lt h, by simp [Instr.opcode, opcodeCell]⟩
  | ret =>
    simp only [transferOf] at h
    split_ifs at h
    exact ⟨targetOf_lt h, by simp [Instr.opcode, opcodeCell]⟩
  | _ => exact nomatch h

/-- Where an instruction transfers to does not depend on the advanced pc or the counter. -/
theorem transferOf_fetched (i : Instr) (s : State) : transferOf i (fetched s) = transferOf i s := by
  cases i <;> rfl

/-- Settles O47: the execution leaves `pc` where `transferOf` says, else advanced; the sample leaves it. -/
theorem pcAdvancesOrTransfers : Obligations.PcAdvancesOrTransfers := by
  intro s t hin hstep
  obtain ⟨-, ⟨hp, -⟩ | ⟨hp, u, hu, rfl⟩⟩ := step_cases hstep
  · exact absurd hp (Nat.not_le.mpr (Nat.lt_succ_of_le hin))
  obtain ⟨hpc, hfaulted⟩ := exec_pc hu
  rw [transferOf_fetched] at hpc hfaulted
  rw [hostSample_pc, hostSample_faulted]
  refine ⟨hpc, fun hsome => ?_⟩
  obtain ⟨a, ha⟩ := Option.isSome_iff_exists.mp hsome
  obtain ⟨hlt, hop⟩ := transferOf_eq_some ha
  rw [decodeCells_opcode, fetchCells_c0 hp] at hop
  rw [ha] at hpc
  exact ⟨hfaulted hsome, hpc ▸ Nat.le_of_lt_succ hlt, hop⟩

end

/-! ## The step, the sample and the ports (spec 40_fetch_decode_loop.md, 45_interrupt_services.md section 1) -/

section

variable {s : State} {i : Instr} {rest : List Val}

theorem fetchCell_eq (s : State) (n : Nat) : fetchCell s n = if n ≤ 255 then s.cell n else 0 :=
  if_congr Nat.lt_succ_iff rfl rfl

/-- What `decode` reads off the four fetched cells is what `decodeCells` makes of them (R102). -/
theorem decode_fetched {c : Cells} (h : decode [c.c0, c.c1, c.c2, c.c3] = .ok (i, rest)) : decodeCells c = i := by
  obtain ⟨c0, c1, c2, c3⟩ := c
  obtain ⟨h3, h4⟩ := instrLen_le c0
  obtain hlen | hlen : instrLen c0 = 3 ∨ instrLen c0 = 4 := by omega
  · rw [decode_three hlen c1 c2 [c3], decodeCells_three hlen c1 c2 0 c3] at h
    exact congrArg Prod.fst (Except.ok.inj h)
  · rw [decode_four hlen c1 c2 c3 []] at h
    exact congrArg Prod.fst (Except.ok.inj h)

/-- Settles O11: the four cells are the fetched ones, and the step is `step_running`. -/
theorem stepRunsDecodedInstruction : Obligations.StepRunsDecodedInstruction := by
  intro s i rest hr hp hdec
  simp only [← fetchCell_eq] at hdec
  obtain rfl : decodeCells (fetchCells s) = i := decode_fetched hdec
  obtain ⟨t, ht⟩ := exec_next (decodeCells (fetchCells s)) (fetched s)
  exact ⟨t, ht, step_running hr (Nat.lt_succ_of_le hp) ht⟩

/-- R110: a halted engine makes no step. -/
theorem step_halted (h : s.run = .halted) : step s = .fault .halted := by simp [step, h]

/-- Settles O13: every instruction answers a next state, and so does the end of memory. -/
theorem stepStopsOnlyWhenHalted : Obligations.StepStopsOnlyWhenHalted := by
  refine fun s => ⟨fun hr => ?_, step_halted⟩
  by_cases hp : s.pc < memSize
  · obtain ⟨u, hu⟩ := exec_next (decodeCells (fetchCells s)) (fetched s)
    exact ⟨_, step_running hr hp hu⟩
  · exact ⟨_, step_end_of_memory hr (Nat.le_of_not_lt hp)⟩

/-- Settles O14: what the sample can do is `hostSample_cases`; scripted answers decide it. -/
theorem hostSampleOnlyWithDisplay : Obligations.HostSampleOnlyWithDisplay := by
  refine fun s => ⟨hostSample_no_display, fun hd => ⟨?_, fun shown quit ps qs hps hqs => ?_⟩⟩
  · exact (hostSample_cases s).elim (fun h => absurd h.1 hd) And.right
  · obtain ⟨d, hsome⟩ := Option.ne_none_iff_exists'.mp hd
    cases shown <;> simp [hostSample, hsome, Ports.nextPresent, Ports.nextQuit, hps, hqs]

/-- Settles O15, script by script. -/
theorem portAnswersAreScriptedOrFree : Obligations.PortAnswersAreScriptedOrFree := by
  refine fun p => ⟨fun x xs h => ?_, fun h => ?_, fun x xs h => ?_, fun h => ?_, fun x xs h => ?_, fun h => ?_,
    fun x xs h => ?_, fun h => ?_⟩
  · rw [Ports.nextKeys, h]
  · rw [Ports.nextKeys, h]
  · rw [Ports.nextExists, h]
  · rw [Ports.nextExists, h]
  · rw [Ports.nextRead, h]
  · rw [Ports.nextRead, h]
  · rw [Ports.nextWrite, h]
  · rw [Ports.nextWrite, h]

end

/-! ## Memory, loading and the dump (spec 20_memory.md, 70_reset_and_hazards.md, 60_exceptions.md section 6) -/

section

variable {m n : Memory} {cfg : Config} {p : List Val} {s t : State}

theorem Memory.wf_nil : Memory.wf [] := ⟨.nil, fun _ h => nomatch h⟩

theorem Memory.wf_tail {q : Nat × Val} (h : Memory.wf (q :: m)) : m.wf :=
  ⟨(List.pairwise_cons.mp h.1).2, fun r hr => h.2 r (List.mem_cons_of_mem q hr)⟩

/-- Up to its first listed address, the rest of a canonical memory reads as blank. -/
theorem Memory.read_tail_of_le {k a : Nat} {w : Val} (h : Memory.wf ((k, w) :: m)) (ha : a ≤ k) :
    m.read a = Memory.blank :=
  Memory.read_unlisted fun q hq => (ha.trans_lt ((List.pairwise_cons.mp h.1).1 q hq)).ne'

/-- Below its first listed address a canonical memory reads as blank. -/
theorem Memory.read_below {k a : Nat} {w : Val} (h : Memory.wf ((k, w) :: m)) (ha : a < k) :
    Memory.read ((k, w) :: m) a = Memory.blank := by
  rw [Memory.read, if_neg ha.ne', Memory.read_tail_of_le h ha.le]

theorem Memory.read_head (k : Nat) (w : Val) (m : Memory) : Memory.read ((k, w) :: m) k = w := by
  simp [Memory.read]

/-- The first listed cell of a canonical memory does not read as blank. -/
theorem Memory.read_head_ne_blank {k : Nat} {w : Val} (h : Memory.wf ((k, w) :: m)) :
    Memory.read ((k, w) :: m) k ≠ Memory.blank := by
  rw [Memory.read_head]
  exact (h.2 (k, w) List.mem_cons_self).2

/-- Past its first listed address a memory reads as its tail. -/
theorem Memory.read_cons_above {k a : Nat} (w : Val) (h : k < a) : Memory.read ((k, w) :: m) a = m.read a := by
  simp [Memory.read, h.ne]

/-- Two canonical memories that read alike are equal: they list the same first address, then the same value, and so
on. -/
theorem Memory.eq_of_read_eq (hm : m.wf) (hn : n.wf) (h : ∀ a, m.read a = n.read a) : m = n := by
  induction m generalizing n with
  | nil =>
    cases n with
    | nil => rfl
    | cons q n => exact absurd (h q.1).symm (Memory.read_head_ne_blank hn)
  | cons q m ih =>
    obtain ⟨k, w⟩ := q
    cases n with
    | nil => exact absurd (h k) (Memory.read_head_ne_blank hm)
    | cons r n =>
      obtain ⟨j, v⟩ := r
      obtain hlt | rfl | hgt := lt_trichotomy k j
      · exact absurd ((h k).trans (Memory.read_below hn hlt)) (Memory.read_head_ne_blank hm)
      · have hval : w = v := by simpa only [Memory.read_head] using h k
        have htail : m = n := by
          refine ih (Memory.wf_tail hm) (Memory.wf_tail hn) fun a => ?_
          by_cases ha : k < a
          · rw [← Memory.read_cons_above w ha, h a, Memory.read_cons_above v ha]
          · have hle : a ≤ k := Nat.le_of_not_lt ha
            rw [Memory.read_tail_of_le hm hle, Memory.read_tail_of_le hn hle]
        rw [hval, htail]
      · exact absurd ((h j).symm.trans (Memory.read_below hm hgt)) (Memory.read_head_ne_blank hn)

/-- Settles O53: the laws of a write, and extensionality; above the last cell both memories are blank. -/
theorem memoryReadsBackWhatWasWritten : Obligations.MemoryReadsBackWhatWasWritten := by
  refine ⟨fun m a v hm ha => ⟨Memory.write_wf hm (Nat.lt_succ_of_le ha) v, Memory.read_write_same hm.1 a v,
    fun b hb => Memory.read_write_other m v hb⟩, fun m n hm hn h => Memory.eq_of_read_eq hm hn fun a => ?_⟩
  by_cases ha : a ≤ 255
  · exact h a ha
  · rw [Memory.read_above hm (Nat.lt_of_not_le ha), Memory.read_above hn (Nat.lt_of_not_le ha)]

/-! ### Loading -/

/-- The state a load gives: reset, with the configuration and the program's cells (R211). -/
def loaded (cfg : Config) (p : List Val) : State := { State.reset with cfg := cfg, mem := Memory.writeAll [] 0 p }

theorem loadProgram_next (hlen : p.length ≤ memSize) (hint : ∀ v ∈ p, isInt v = true) :
    loadProgram cfg p = .next (loaded cfg p) := by
  rw [loadProgram, if_neg (Nat.not_lt.mpr hlen), if_pos (List.all_eq_true.mpr hint)]
  rfl

theorem loadProgram_tooLong (hlen : memSize < p.length) : loadProgram cfg p = .refused .programTooLong :=
  if_pos hlen

theorem loadProgram_notInteger (hlen : p.length ≤ memSize) (hint : ∃ v ∈ p, isInt v = false) :
    loadProgram cfg p = .refused .programNotInteger := by
  obtain ⟨v, hv, hno⟩ := hint
  have hall : ¬ p.all isInt = true := fun h => nomatch hno.symm.trans (List.all_eq_true.mp h v hv)
  rw [loadProgram, if_neg (Nat.not_lt.mpr hlen), if_neg hall]

/-- A load answers a next state only as `loaded`. -/
theorem loadProgram_eq_next (h : loadProgram cfg p = .next t) : t = loaded cfg p := by
  unfold loadProgram at h
  split_ifs at h
  exact (Host.Outcome.next.inj h).symm

theorem loaded_mem_wf (cfg : Config) (p : List Val) : (loaded cfg p).mem.wf := Memory.writeAll_wf Memory.wf_nil 0 p

/-- The program stands verbatim from address 0. -/
theorem loaded_cell (hlen : p.length ≤ memSize) {k : Nat} (h : k < p.length) : (loaded cfg p).cell k = p[k] := by
  have hread := Memory.read_writeAll Memory.wf_nil 0 p k (h.trans_le hlen)
  rw [dif_pos ⟨Nat.zero_le k, h⟩] at hread
  exact hread

/-- Every cell after the program is 0. -/
theorem loaded_cell_above {k : Nat} (h : p.length ≤ k) : (loaded cfg p).cell k = 0 := by
  by_cases hk : k < memSize
  · have hread := Memory.read_writeAll Memory.wf_nil 0 p k hk
    rw [dif_neg fun hin => absurd hin.2 (Nat.not_lt.mpr h)] at hread
    exact hread
  · exact Memory.read_above (loaded_mem_wf cfg p) (Nat.le_of_not_lt hk)

theorem loaded_slot (k : Nat) : (loaded cfg p).slot k = 0 := by
  simp only [loaded, State.slot, State.reset, Vector.getElem?_replicate]
  split_ifs <;> rfl

/-- Settles O1: the three outcomes of a load, and what the loaded state holds. -/
theorem loadingGivesResetStateWithProgram : Obligations.LoadingGivesResetStateWithProgram := by
  refine fun cfg p => ⟨fun hlen hint => ?_, loadProgram_tooLong, loadProgram_notInteger⟩
  exact ⟨_, loadProgram_next hlen hint, fun k => loaded_cell hlen, fun k => loaded_cell_above,
    fun r => by cases r <;> rfl, rfl, rfl, loaded_slot, rfl, rfl, rfl, rfl, rfl, rfl, rfl⟩

theorem loaded_inv (h : cfg.wf) (p : List Val) : (loaded cfg p).Inv where
  mem := loaded_mem_wf cfg p
  pc := Nat.zero_le _
  sp := le_refl 32
  cfg := h
  display := nofun
  faulted := nofun

/-- Settles O2: reset is the load of the empty program under the default table. -/
theorem resetAndLoadedStatesMeetInvariant : Obligations.ResetAndLoadedStatesMeetInvariant := by
  have hdefault : Config.default.wf := by decide
  refine ⟨loaded_inv hdefault [], fun cfg p t hwf hload => ?_⟩
  rw [loadProgram_eq_next hload]
  exact loaded_inv hwf p

/-! ### The dump -/

/-- Settles O54: the dump is built from the registers, the slots, the counter and the cells in order. -/
theorem dumpShowsTheHaltedState : Obligations.DumpShowsTheHaltedState := by
  refine fun s => ⟨fun hr => by simp [dump, hr], fun hh => ?_⟩
  refine ⟨_, by rw [dump, hh], rfl, rfl, Vector.length_toList, by simp [memSize], fun k hk => ?_, fun k hk => ?_⟩
  · simp [State.slot, hk]
  · simp [memSize, hk]

end

/-! ## INT and its services (spec 45_interrupt_services.md) -/

section

variable {s : State} {v : Val} {bound n : Int}

/-! ### INT selects its service -/

/-- The meaning of an INT with a listed code is that of the service's row (R161). -/
theorem exec_int_service (k : Service) (s : State) : exec (.int (serviceCell k)) s = exec (rowOfService k) s := by
  rw [exec_int, serviceRow_serviceCell]

/-- Every unknown service code is delivered as Fault(1) (R173). -/
theorem exec_intUnknown (code : Val) (s : State) :
    exec (.intUnknown code) s = .next (afterDelivery 1 (opcodeCell .int) s) := rfl

/-- Settles O33: `exec_int`, for a listed code, for an unlisted one, and for the row an INT word decodes to. -/
theorem intSelectsItsService : Obligations.IntSelectsItsService := by
  refine ⟨fun s => ?_, fun code s hcode => ?_, fun code pad x s => ?_⟩
  · exact ⟨exec_int_service .printChar s, exec_int_service .printInt s, exec_int_service .displayInit s,
      exec_int_service .setPixel s, exec_int_service .drawChar s, exec_int_service .keyPoll s,
      exec_int_service .blockRead s, exec_int_service .blockWrite s, exec_int_service .error s,
      exec_int_service .halt s⟩
  · refine ⟨?_, exec_intUnknown code s⟩
    rw [exec_int, serviceRow_unlisted (serviceOf_unlisted hcode), exec_intUnknown]
    rfl
  · obtain ⟨t, ht⟩ := exec_next (.int code) s
    have hrow : decodeCells ⟨0x0A, code, pad, x⟩ = serviceRow code := decodeCells_int rfl
    exact ⟨t, ht, by rw [hrow, ← exec_int, ht]⟩

/-! ### Parameters (decision D14) -/

/-- A value that is not an integer, or out of the bounds, is no coordinate. -/
theorem coordOf_none (h : isInt v = false ∨ v < 0 ∨ (bound : Val) ≤ v) : coordOf bound v = none := by
  rw [Option.eq_none_iff_forall_ne_some]
  intro n hn
  obtain ⟨rfl, h0, hlt⟩ := coordOf_eq_some.mp hn
  obtain h | h | h := h
  · simp [isInt] at h
  · exact absurd (Int.cast_lt_zero.mp h) (Int.not_lt.mpr h0)
  · exact absurd (Int.cast_le.mp h) (Int.not_le.mpr hlt)

/-- A value that is not an integer, or below 1, is no size. -/
theorem sizeOf_none (h : isInt v = false ∨ v < 1) : sizeOf v = none := by
  rw [Option.eq_none_iff_forall_ne_some]
  intro n hn
  obtain ⟨rfl, h1⟩ := sizeOf_eq_some.mp hn
  obtain h | h := h
  · simp [isInt] at h
  · have hlt : n < 1 := by exact_mod_cast h
    omega

/-- A value that is neither 0 nor 1 is no display mode. -/
theorem displayModeOf_none (h : v ≠ 0 ∧ v ≠ 1) : displayModeOf v = none := by simp [displayModeOf, h]

/-- An integer in range is a coordinate, its numerator. -/
theorem coordOf_of_isIntIn (h : isIntIn 0 (bound - 1) v = true) : coordOf bound v = some v.num := by
  have hne : coordOf bound v ≠ none := fun e => nomatch h.symm.trans (coordOf_eq_none.mp e)
  obtain ⟨n, hn⟩ := Option.ne_none_iff_exists'.mp hne
  rw [hn, coordOf_num hn]

/-! ### Printing -/

theorem exec_intPrintChar (s : State) :
    exec .intPrintChar s = .next (withInt (opcodeCell .int) s.regs.a s fun n => s.emit (.printChar n)) := rfl

/-- Settles O34: print-char is one checked integer, print-int one event. -/
theorem printServicesEmitA : Obligations.PrintServicesEmitA := by
  refine fun s => ⟨fun n hn => ?_, fun hno => ?_, rfl⟩
  · rw [exec_intPrintChar, hn, withInt_intCast]; rfl
  · rw [exec_intPrintChar, withInt_none hno]; rfl

/-- Settles O41: both are one operation of the state. -/
theorem errorAndHaltServicesStop : Obligations.ErrorAndHaltServicesStop := fun _ => ⟨rfl, rfl⟩

/-! ### The display -/

theorem exec_displayInit_ok {m : DisplayMode} {w h : Int} (hm : displayModeOf s.regs.a = some m)
    (hw : sizeOf s.regs.b = some w) (hh : sizeOf s.regs.c = some h) :
    exec .intDisplayInit s = .next (initDisplay m w h s) := by
  simp only [exec, execIntDisplayInit, hm, hw, hh]

theorem exec_displayInit_bad
    (h : displayModeOf s.regs.a = none ∨ sizeOf s.regs.b = none ∨ sizeOf s.regs.c = none) :
    exec .intDisplayInit s = .next (afterDelivery 1 (opcodeCell .int) s) := by
  simp only [exec, execIntDisplayInit]
  split
  next hm hw hh => simp [hm, hw, hh] at h
  next => rfl

/-- Settles O35: three admitted parameters, or one that is not. -/
theorem displayInitConfiguresDisplay : Obligations.DisplayInitConfiguresDisplay := by
  refine fun s => ⟨fun w h ha hb hc hw hh => ?_, fun w h ha hb hc hw hh => ?_, fun hbad => exec_displayInit_bad ?_⟩
  · exact exec_displayInit_ok (m := .pixel) (by rw [ha]; rfl) (sizeOf_eq_some.mpr ⟨hb, hw⟩)
      (sizeOf_eq_some.mpr ⟨hc, hh⟩)
  · exact exec_displayInit_ok (m := .text) (by rw [ha]; rfl) (sizeOf_eq_some.mpr ⟨hb, hw⟩)
      (sizeOf_eq_some.mpr ⟨hc, hh⟩)
  · obtain hmode | hb | hc | hb | hc := hbad
    · exact .inl (displayModeOf_none hmode)
    · exact .inr (.inl (sizeOf_none (.inl hb)))
    · exact .inr (.inr (sizeOf_none (.inl hc)))
    · exact .inr (.inl (sizeOf_none (.inr hb)))
    · exact .inr (.inr (sizeOf_none (.inr hc)))

section

variable {w h x y char idx color : Int}

theorem exec_setPixel_ok (hd : s.display = some ⟨.pixel, w, h⟩) (hx : coordOf w s.regs.b = some x)
    (hy : coordOf h s.regs.c = some y) (hcolor : intOf s.regs.a = some color) :
    exec .intSetPixel s = .next (s.emit (.setPixel x y color)) := by
  simp only [exec, execIntSetPixel, hd, hx, hy, hcolor]

theorem exec_setPixel_bad (hd : s.display = some ⟨.pixel, w, h⟩)
    (hbad : coordOf w s.regs.b = none ∨ coordOf h s.regs.c = none ∨ intOf s.regs.a = none) :
    exec .intSetPixel s = .next (afterDelivery 1 (opcodeCell .int) s) := by
  simp only [exec, execIntSetPixel, hd]
  split
  next hx hy hcolor => simp [hx, hy, hcolor] at hbad
  next => rfl

theorem exec_setPixel_noPixels (hd : s.display = none ∨ ∃ w h, s.display = some ⟨.text, w, h⟩) :
    exec .intSetPixel s = .next (afterDelivery 1 (opcodeCell .int) s) := by
  obtain hd | ⟨w, h, hd⟩ := hd
  · simp only [exec, execIntSetPixel, hd]; rfl
  · simp only [exec, execIntSetPixel, hd]; rfl

/-- Settles O36: three admitted parameters, one that is not, or no pixels. -/
theorem setPixelChecksItsBounds : Obligations.SetPixelChecksItsBounds := by
  refine fun s => ⟨fun w h x y color hd ha hb hc hx hxw hy hyh => ?_, exec_setPixel_noPixels, fun w h hd hbad =>
    exec_setPixel_bad hd ?_⟩
  · exact exec_setPixel_ok hd (coordOf_eq_some.mpr ⟨hb, hx, hxw⟩) (coordOf_eq_some.mpr ⟨hc, hy, hyh⟩)
      (intOf_eq_some.mpr ha)
  · obtain ha | hb | hc | hb | hb | hc | hc := hbad
    · exact .inr (.inr (intOf_eq_none.mpr ha))
    · exact .inl (coordOf_none (.inl hb))
    · exact .inr (.inl (coordOf_none (.inl hc)))
    · exact .inl (coordOf_none (.inr (.inl hb)))
    · exact .inl (coordOf_none (.inr (.inr hb)))
    · exact .inr (.inl (coordOf_none (.inr (.inl hc))))
    · exact .inr (.inl (coordOf_none (.inr (.inr hc))))

theorem exec_drawChar_ok (hd : s.display = some ⟨.text, w, h⟩) (ha : intOf s.regs.a = some char)
    (hb : intOf s.regs.b = some idx) (hc : intOf s.regs.c = some color) :
    exec .intDrawChar s =
      .next ((s.emit (.drawChar (clampIndex (nCells s.cfg w h) idx) char color)).emit .present) := by
  simp only [exec, execIntDrawChar, hd, ha, hb, hc]

theorem exec_drawChar_bad
    (hbad : s.display = none ∨ (∃ w h, s.display = some ⟨.pixel, w, h⟩) ∨
      intOf s.regs.a = none ∨ intOf s.regs.b = none ∨ intOf s.regs.c = none) :
    exec .intDrawChar s = .next (afterDelivery 1 (opcodeCell .int) s) := by
  simp only [exec, execIntDrawChar]
  split
  next hd =>
    split
    next ha hb hc => simp [hd, ha, hb, hc] at hbad
    next => rfl
  next => rfl
  next => rfl

theorem clampIndex_inside (h0 : 0 ≤ idx) (hn : idx < bound) : clampIndex bound idx = idx := if_pos ⟨h0, hn⟩

theorem clampIndex_outside (h : idx < 0 ∨ bound ≤ idx) : clampIndex bound idx = bound - 1 :=
  if_neg (by omega)

/-- A display of positive size has a cell, in every configuration (decision D27). -/
theorem nCells_pos (cfg : Config) (hw : 1 ≤ w) (hh : 1 ≤ h) : 0 < nCells cfg w h := by
  unfold nCells
  split
  · exact Int.mul_pos hw hh
  · exact Int.lt_add_one_of_le (Int.natCast_nonneg _)

theorem nCells_product {cfg : Config} (hn : cfg.nCells = .product) (w h : Int) : nCells cfg w h = w * h := by
  simp [nCells, hn]

/-- Settles O37: the drawn cell is `clampIndex`; every failing check is delivered. -/
theorem drawCharClampsItsIndex : Obligations.DrawCharClampsItsIndex := by
  refine fun s => ⟨fun w h char idx color hd ha hb hc => ?_, fun w h hw hh => ?_, fun hbad =>
    exec_drawChar_bad ?_⟩
  · refine ⟨clampIndex (nCells s.cfg w h) idx, ?_, clampIndex_inside, clampIndex_outside⟩
    rw [exec_drawChar_ok hd (intOf_eq_some.mpr ha) (intOf_eq_some.mpr hb) (intOf_eq_some.mpr hc)]
    simp [State.emit]
  · exact ⟨nCells_pos s.cfg hw hh, fun hn => nCells_product hn w h⟩
  · simpa only [intOf_eq_none] using hbad

end

/-! ### The keys -/

section

variable {keys : List Int} {ports : Ports}

theorem pollKeys_eq (h : s.ports.nextKeys = (keys, ports)) :
    pollKeys s = (keys, { s with out := s.out ++ [.pressedKeycodes], ports := ports }) := by
  simp [pollKeys, h, State.emit]

theorem exec_keyPoll (h : s.ports.nextKeys = (keys, ports)) :
    exec .intKeyPoll s =
      .next (reportKeys keys { s with out := s.out ++ [.pressedKeycodes], ports := ports }) := by
  simp only [exec, execIntKeyPoll, pollKeys_eq h]

/-- Key-poll writes A, B and the remembered key, and nothing else. -/
theorem reportKeys_frame (keys : List Int) (s : State) :
    (∀ q, q ≠ .A → q ≠ .B → (reportKeys keys s).reg q = s.reg q) ∧
      reportKeys keys s = { s with regs := (reportKeys keys s).regs, lastKey := (reportKeys keys s).lastKey } := by
  refine ⟨fun q hA hB => ?_, ?_⟩
  · unfold reportKeys
    cases q with
    | A => exact absurd rfl hA
    | B => exact absurd rfl hB
    | _ => split <;> rfl
  · unfold reportKeys
    split <;> rfl

theorem reportKeys_of_min {k : Int} (h : keys.min? = some k) (s : State) :
    reportKeys keys s =
      { s with
        regs := { s.regs with a := (k : Val), b := if s.lastKey = some k then 0 else 1 }
        lastKey := some k } := by
  simp only [reportKeys, h]

/-- Settles O38: the least key is `List.min?`, none exactly of the empty answer. -/
theorem keyPollReportsTheLeastKey : Obligations.KeyPollReportsTheLeastKey := by
  intro s keys ports hports
  set v : State := { s with out := s.out ++ [.pressedKeycodes], ports := ports }
  obtain ⟨hother, hframe⟩ := reportKeys_frame keys v
  refine ⟨_, exec_keyPoll hports, fun hnone => ?_, fun k hk hleast => ?_, hother, hframe⟩
  · subst hnone
    exact ⟨rfl, rfl, rfl⟩
  · have hmin : keys.min? = some k := List.min?_eq_some_iff.mpr ⟨hk, hleast⟩
    rw [reportKeys_of_min hmin]
    exact ⟨rfl, rfl, rfl⟩

end

/-! ### The block device -/

section

variable {i : Instr} {go : Int → Int → Int → State → State} {d sec o : Int} {ports : Ports}

theorem blockValidate_drive (hd : coordOf 10 s.regs.a = none) : blockValidate s go = afterDelivery 0x81 0 s := by
  simp only [blockValidate, hd]; rfl

theorem blockValidate_sector (hd : coordOf 10 s.regs.a = some d) (hs : coordOf 16 s.regs.b = none) :
    blockValidate s go = afterDelivery 0x82 0 s := by
  simp only [blockValidate, hd, hs]; rfl

theorem blockValidate_offset (hd : coordOf 10 s.regs.a = some d) (hs : coordOf 16 s.regs.b = some sec)
    (ho : coordOf 255 s.regs.c = none) : blockValidate s go = afterDelivery 0x83 0 s := by
  simp only [blockValidate, hd, hs, ho]; rfl

theorem askExists_eq {yes : Bool} (h : s.ports.nextExists = (yes, ports)) (d : Int) :
    askExists d s = (yes, { s with out := s.out ++ [.blockExists d], ports := ports }) := by
  simp [askExists, h, State.emit]

theorem blockValidate_absent (hd : coordOf 10 s.regs.a = some d) (hs : coordOf 16 s.regs.b = some sec)
    (ho : coordOf 255 s.regs.c = some o) (he : s.ports.nextExists = (false, ports)) :
    blockValidate s go =
      afterDelivery 0x84 0 { s with out := s.out ++ [.blockExists d], ports := ports } := by
  simp only [blockValidate, hd, hs, ho, askExists_eq he]; rfl

theorem blockValidate_present (hd : coordOf 10 s.regs.a = some d) (hs : coordOf 16 s.regs.b = some sec)
    (ho : coordOf 255 s.regs.c = some o) (he : s.ports.nextExists = (true, ports)) :
    blockValidate s go = go d sec o { s with out := s.out ++ [.blockExists d], ports := ports } := by
  simp only [blockValidate, hd, hs, ho, askExists_eq he, if_true]

/-- A service that validates first keeps the rule of the block services (R170). -/
theorem blockRule_of_blockValidate (h : exec i s = .next (blockValidate s go)) : blockRule i s := by
  rw [blockRule, h]
  refine ⟨fun hd => ?_, fun hd hs => ?_, fun hd hs ho => ?_, fun ports hd hs ho he => ?_⟩
  · rw [blockValidate_drive (coordOf_eq_none.mpr hd)]
  · rw [blockValidate_sector (coordOf_of_isIntIn hd) (coordOf_eq_none.mpr hs)]
  · rw [blockValidate_offset (coordOf_of_isIntIn hd) (coordOf_of_isIntIn hs) (coordOf_eq_none.mpr ho)]
  · rw [blockValidate_absent (coordOf_of_isIntIn hd) (coordOf_of_isIntIn hs) (coordOf_of_isIntIn ho) he]

/-- A read with the answer `r`, in a state whose trace and ports are written out. -/
theorem askRead_eq {r : Option (Fin 256)} {p q : Ports} (h : p.nextRead = (r, q)) (d sec o : Int) (es : List Event)
    (s : State) :
    askRead d sec o { s with out := es, ports := p } =
      (r, { s with out := es ++ [.blockReadByte d sec o], ports := q }) := by
  simp [askRead, h, State.emit]

/-- A write with the answer `ok`, in a state whose trace and ports are written out. -/
theorem askWrite_eq {ok : Bool} {p q : Ports} (h : p.nextWrite = (ok, q)) (d sec o : Int) (byte : Val)
    (es : List Event) (s : State) :
    askWrite d sec o byte { s with out := es, ports := p } =
      (ok, { s with out := es ++ [.blockWriteByte d sec o byte], ports := q }) := by
  simp [askWrite, h, State.emit]

theorem exec_blockRead (s : State) :
    exec .intBlockRead s =
      .next (blockValidate s fun d sec o t => finishRead (askRead d sec o t).1 (askRead d sec o t).2) := rfl

theorem exec_blockWrite (s : State) :
    exec .intBlockWrite s =
      .next (blockValidate s fun d sec o t =>
        finishWrite (askWrite d sec o t.regs.d t).1 (askWrite d sec o t.regs.d t).2) := rfl

/-- The fields of a block service as its coordinates (R170). -/
theorem block_fields (ha : s.regs.a = (d : Val)) (hb : s.regs.b = (sec : Val)) (hc : s.regs.c = (o : Val))
    (hd : 0 ≤ d ∧ d ≤ 9) (hs : 0 ≤ sec ∧ sec ≤ 15) (ho : 0 ≤ o ∧ o ≤ 254) :
    coordOf 10 s.regs.a = some d ∧ coordOf 16 s.regs.b = some sec ∧ coordOf 255 s.regs.c = some o :=
  ⟨coordOf_eq_some.mpr ⟨ha, hd.1, Int.lt_add_one_of_le hd.2⟩, coordOf_eq_some.mpr ⟨hb, hs.1, Int.lt_add_one_of_le hs.2⟩,
    coordOf_eq_some.mpr ⟨hc, ho.1, Int.lt_add_one_of_le ho.2⟩⟩

/-- Settles O39: the rule of the block services, then the two answers of the read. -/
theorem blockReadValidatesThenReads : Obligations.BlockReadValidatesThenReads := by
  refine fun s => ⟨blockRule_of_blockValidate (exec_blockRead s), ?_⟩
  intro d sec o p q ha hb hc hd0 hd9 hs0 hs15 ho0 ho254 he
  obtain ⟨hd, hs, ho⟩ := block_fields ha hb hc ⟨hd0, hd9⟩ ⟨hs0, hs15⟩ ⟨ho0, ho254⟩
  rw [exec_blockRead, blockValidate_present hd hs ho he]
  refine ⟨fun byte hr => ⟨_, rfl, ?_⟩, fun hr => ?_⟩
  · rw [askRead_eq hr, List.append_assoc]
    exact ⟨setReg_reg_same _ .E _, fun r hne => setReg_reg_other _ _ hne, rfl⟩
  · rw [askRead_eq hr, List.append_assoc]
    rfl

/-- Settles O40: the rule of the block services, then the two answers of the write. -/
theorem blockWriteValidatesThenWrites : Obligations.BlockWriteValidatesThenWrites := by
  refine fun s => ⟨blockRule_of_blockValidate (exec_blockWrite s), ?_⟩
  intro d sec o p q ha hb hc hd0 hd9 hs0 hs15 ho0 ho254 he
  obtain ⟨hd, hs, ho⟩ := block_fields ha hb hc ⟨hd0, hd9⟩ ⟨hs0, hs15⟩ ⟨ho0, ho254⟩
  rw [exec_blockWrite, blockValidate_present hd hs ho he]
  refine ⟨fun hw => ?_, fun hw => ?_⟩
  · rw [askWrite_eq hw, List.append_assoc]
    rfl
  · rw [askWrite_eq hw, List.append_assoc]
    rfl

end

end

end Sys2Proof.Machine
